-- ==== Sys2Proof/Word.lean ====
section
/-! DEFINITION. The widths of the wire: bytes, and the 16-bit halves of a transfer address (R29). Every other
number of the specification is a mathematical integer or rational (R10), written `Int`, `Nat` or `Rat`. -/

namespace Sys2Proof

/-- One byte of a data stage, a shadow cell or a sample buffer. -/
abbrev Byte := BitVec 8

/-- One 16-bit component of a transfer address: `wValue` or `wIndex` (R29). -/
abbrev Half := BitVec 16

end Sys2Proof
end

