-- ==== Sys2Proof/Syntax.lean ====
section
/-! DEFINITION. The syntax of the block: the WriteCommand record (R51), the commands of the command port (R57)
and, one constructor for each row of the opcode table, the inductive `Instr`. Operands are values, not bit
strings (R57), and a value outside its range is no encoding error (R51, R58): it reaches the operation and raises
there. So every integer operand is an `Int`. -/

namespace Sys2Proof

/-- A WriteCommand, the element of a batch (R51). `unknown` is a record that R51 has no form for. -/
inductive WriteCommand where
  /-- tag 0x00, `Reg(block, reg, value, width)`. -/
  | reg (block reg value width : Int)
  /-- tag 0x01, `RegMask(block, reg, value, mask)`. -/
  | regMask (block reg value mask : Int)
  /-- tag 0x02, `DemodReg(page, addr, value, width)`. -/
  | demodReg (page addr value width : Int)
  /-- tag 0x03, `I2CReg(addr, reg, value)`; `dev` is the I2C device address. -/
  | i2cReg (dev reg value : Int)
  /-- A record with an illegal tag and whatever fields it carries (R52), or with a legal tag and another number of fields
  than its variant has (log entry 7). -/
  | unknown (tag : Byte) (fields : List Int)
deriving DecidableEq, Repr, Inhabited

/-- The instructions: the 35 commands of the command port (R57) and the four WriteCommand rows (R51). -/
inductive Instr where
  /-- 0x01 `writeReg` (R64). -/
  | writeReg (block reg value width : Int)
  /-- 0x02 `readReg` (R65). -/
  | readReg (block reg width : Int)
  /-- 0x03 `writeRegMask` (R66). -/
  | writeRegMask (block reg value mask : Int)
  /-- 0x04 `writeDemodReg` (R67). -/
  | writeDemodReg (page addr value width : Int)
  /-- 0x05 `readDemodReg` (R68). -/
  | readDemodReg (page addr : Int)
  /-- 0x06 `openI2C` (R69). -/
  | openI2C
  /-- 0x07 `closeI2C` (R70). -/
  | closeI2C
  /-- 0x08 `readI2CReg` (R71). -/
  | readI2CReg (dev reg : Int)
  /-- 0x09 `writeI2CReg` (R72). -/
  | writeI2CReg (dev reg value : Int)
  /-- 0x0A `readI2CRegBuffer` (R73). -/
  | readI2CRegBuffer (dev reg n : Int)
  /-- 0x0B `writeI2CRegBuffer` (R74). -/
  | writeI2CRegBuffer (dev reg : Int) (bytes : List Byte)
  /-- 0x0C `writeEach` (R75). -/
  | writeEach (commands : List WriteCommand)
  /-- 0x0D `claimInterface` (R76). -/
  | claimInterface
  /-- 0x0E `releaseInterface` (R77). -/
  | releaseInterface
  /-- 0x0F `readBulk` (R78). -/
  | readBulk (n : Int)
  /-- 0x20 `tuner.check` (R80). -/
  | tunerCheck
  /-- 0x21 `tuner.init` (R86). -/
  | tunerInit
  /-- 0x22 `tuner.initElectronics` (R87). -/
  | tunerInitElectronics
  /-- 0x23 `tuner.setFrequency` (R91). -/
  | tunerSetFrequency (freq : Int)
  /-- 0x24 `tuner.setMux` (R90). -/
  | tunerSetMux (freq : Int)
  /-- 0x25 `tuner.setPll` (R92). -/
  | tunerSetPll (freq : Int)
  /-- 0x26 `tuner.getPllLock` (R101). -/
  | tunerGetPllLock (first : Bool)
  /-- 0x27 `tuner.calibrateFilter` (R103). -/
  | tunerCalibrateFilter (first : Bool)
  /-- 0x28 `tuner.setAutoGain` (R109). -/
  | tunerSetAutoGain
  /-- 0x29 `tuner.setManualGain` (R110). -/
  | tunerSetManualGain (gainDb : Rat)
  /-- 0x2A `tuner.readRegBuffer` (R82). -/
  | tunerReadRegBuffer (addr n : Int)
  /-- 0x2B `tuner.writeRegMask` (R83). -/
  | tunerWriteRegMask (addr value mask : Int)
  /-- 0x2C `tuner.close` (R88). -/
  | tunerClose
  /-- 0x40 `open` (R113). -/
  | controllerOpen
  /-- 0x41 `setSampleRate` (R118). -/
  | setSampleRate (rateHz : Int)
  /-- 0x42 `setCenterFrequency` (R121). -/
  | setCenterFrequency (freqHz : Int)
  /-- 0x43 `setGain` (R116); `none` selects automatic gain. -/
  | setGain (gain : Option Rat)
  /-- 0x44 `resetBuffer` (R122). -/
  | resetBuffer
  /-- 0x45 `readSamples` (R123). -/
  | readSamples (count : Int)
  /-- 0x46 `close` (R125). -/
  | controllerClose
  /-- WC tag 0x00, `Reg`: one element of a batch (R51, R75). -/
  | wcReg (block reg value width : Int)
  /-- WC tag 0x01, `RegMask` (R51, R75). -/
  | wcRegMask (block reg value mask : Int)
  /-- WC tag 0x02, `DemodReg` (R51, R75). -/
  | wcDemodReg (page addr value width : Int)
  /-- WC tag 0x03, `I2CReg` (R51, R75). -/
  | wcI2CReg (dev reg value : Int)
deriving DecidableEq, Repr, Inhabited

/-- The number of fields of the variant a tag names (R51); an illegal tag names none (R52). -/
def fieldCount (tag : Byte) : Option Nat :=
  match tag.toNat with
  | 0x00 | 0x01 | 0x02 => some 4
  | 0x03 => some 3
  | _ => none

/-- The instruction a WriteCommand is dispatched as (R51); an unknown record is dispatched as none (R52). -/
def WriteCommand.instr : WriteCommand → Option Instr
  | .reg b r v w => some (.wcReg b r v w)
  | .regMask b r v m => some (.wcRegMask b r v m)
  | .demodReg p a v w => some (.wcDemodReg p a v w)
  | .i2cReg d r v => some (.wcI2CReg d r v)
  | .unknown _ _ => none

/-- Whether an instruction is an element of a batch and not a command of the port (R51). -/
def Instr.isBatchRecord : Instr → Bool
  | .wcReg _ _ _ _ | .wcRegMask _ _ _ _ | .wcDemodReg _ _ _ _ | .wcI2CReg _ _ _ => true
  | .writeReg _ _ _ _ | .readReg _ _ _ | .writeRegMask _ _ _ _ | .writeDemodReg _ _ _ _ | .readDemodReg _ _
  | .openI2C | .closeI2C | .readI2CReg _ _ | .writeI2CReg _ _ _ | .readI2CRegBuffer _ _ _
  | .writeI2CRegBuffer _ _ _ | .writeEach _ | .claimInterface | .releaseInterface | .readBulk _
  | .tunerCheck | .tunerInit | .tunerInitElectronics | .tunerSetFrequency _ | .tunerSetMux _ | .tunerSetPll _
  | .tunerGetPllLock _ | .tunerCalibrateFilter _ | .tunerSetAutoGain | .tunerSetManualGain _
  | .tunerReadRegBuffer _ _ | .tunerWriteRegMask _ _ _ | .tunerClose
  | .controllerOpen | .setSampleRate _ | .setCenterFrequency _ | .setGain _ | .resetBuffer | .readSamples _
  | .controllerClose => false

/-- A WriteCommand as it travels: its tag byte and its fields in the order of R51. -/
structure WCRecord where
  tag : Byte
  fields : List Int
deriving DecidableEq, Repr, Inhabited

/-- One typed operand of a command record (R57): an integer, a rational, a boolean, `none`, a byte list or a
WriteCommand list. A block operand is the integer code of R51 (DEMOD 0, USB 1, SYS 2, I2C 3). -/
inductive Operand where
  | int (z : Int)
  | rat (q : Rat)
  | bool (b : Bool)
  | absent
  | bytes (bs : List Byte)
  | records (rs : List WCRecord)
deriving DecidableEq, Repr, Inhabited

/-- The CMD format (R50, R57): an opcode byte and typed operands. -/
structure Record where
  opcode : Byte
  operands : List Operand
deriving DecidableEq, Repr, Inhabited

/-- The two record formats an instruction of the opcode table is written in (R50): CMD and WC. -/
inductive Form where
  | cmd (r : Record)
  | wc (r : WCRecord)
deriving DecidableEq, Repr, Inhabited

end Sys2Proof
end

