-- ==== Sys2Proof/WellFormed.lean ====
section
/-! DEFINITION. The operand ranges of the instructions (R51, R58 and the range each operation's rule states). An
instruction outside them is still an instruction: its operation raises the error or fault its rule names. -/

namespace Sys2Proof

/-- `lo <= v <= hi`. -/
def inRange (lo hi v : Int) : Bool := decide (lo ≤ v) && decide (v ≤ hi)

/-- A register width: one of 1, 2 and 4 (R33). -/
def isWidth (w : Int) : Bool := w == 1 || w == 2 || w == 4

/-- A value of `w` bytes: `0 <= v < 2^(8w)` with `w` a width (R34). -/
def fitsWidth (v w : Int) : Bool := isWidth w && decide (0 ≤ v) && decide (v < 2 ^ (8 * w.toNat))

/-- One of the four block codes (R53). -/
def isBlockCode (b : Int) : Bool := inRange 0 3 b

/-- An 8-bit operand. -/
def isByte (v : Int) : Bool := inRange 0 0xFF v

/-- The field ranges of a WriteCommand (R51); an unknown record is one that is no variant's (R52). -/
def WriteCommand.wellFormed : WriteCommand → Bool
  | .reg b r v w => isBlockCode b && inRange 0 0xFFFF r && fitsWidth v w
  | .regMask b r v m => isBlockCode b && inRange 0 0xFFFF r && isByte v && isByte m
  | .demodReg p a v w => inRange 0 15 p && isByte a && fitsWidth v w
  | .i2cReg d r v => isByte d && isByte r && isByte v
  | .unknown t fs => fieldCount t != some fs.length

/-- The operand ranges of every instruction (R58). -/
def Instr.wellFormed : Instr → Bool
  | .writeReg b r v w => isBlockCode b && inRange 0 0xFFFF r && fitsWidth v w
  | .readReg b r w => isBlockCode b && inRange 0 0xFFFF r && isWidth w
  | .writeRegMask b r v m => isBlockCode b && inRange 0 0xFFFF r && isByte v && isByte m
  | .writeDemodReg p a v w => inRange 0 15 p && isByte a && fitsWidth v w
  | .readDemodReg p a => inRange 0 15 p && isByte a
  | .openI2C => true
  | .closeI2C => true
  | .readI2CReg d r => isByte d && isByte r
  | .writeI2CReg d r v => isByte d && isByte r && isByte v
  | .readI2CRegBuffer d r n => isByte d && isByte r && decide (1 ≤ n)
  | .writeI2CRegBuffer d r bs => isByte d && isByte r && decide (1 ≤ bs.length)
  | .writeEach cs => cs.all WriteCommand.wellFormed
  | .claimInterface => true
  | .releaseInterface => true
  | .readBulk n => decide (1 ≤ n)
  | .tunerCheck => true
  | .tunerInit => true
  | .tunerInitElectronics => true
  | .tunerSetFrequency f => inRange 1 1770000000 f
  | .tunerSetMux f => decide (0 ≤ f)
  | .tunerSetPll f => inRange 1 1770000000 f
  | .tunerGetPllLock _ => true
  | .tunerCalibrateFilter _ => true
  | .tunerSetAutoGain => true
  | .tunerSetManualGain _ => true
  | .tunerReadRegBuffer a n => inRange 0 0x1F a && decide (1 ≤ n) && decide (a + n ≤ 0x20)
  | .tunerWriteRegMask a _ m => inRange 0x05 0x1F a && isByte m
  | .tunerClose => true
  | .controllerOpen => true
  | .setSampleRate _ => true
  | .setCenterFrequency _ => true
  | .setGain _ => true
  | .resetBuffer => true
  | .readSamples n => decide (1 ≤ n)
  | .controllerClose => true
  | .wcReg b r v w => isBlockCode b && inRange 0 0xFFFF r && fitsWidth v w
  | .wcRegMask b r v m => isBlockCode b && inRange 0 0xFFFF r && isByte v && isByte m
  | .wcDemodReg p a v w => inRange 0 15 p && isByte a && fitsWidth v w
  | .wcI2CReg d r v => isByte d && isByte r && isByte v

end Sys2Proof
end

