-- ==== Sys2Proof/Decode.lean ====
section
/-! DEFINITION. The decoder and the encoder of the two record formats of the opcode table, CMD (R57) and WC (R51).
An opcode or tag byte selects the instruction; operands are values (R57). Both are written from the same tables. -/

namespace Sys2Proof

/-- What a record is read as. -/
inductive Decoded where
  | instr (i : Instr)
  /-- an opcode outside the table of R57 (R59) -/
  | reserved
  /-- a known opcode or tag whose operands are not of the number and types R57 or R51 gives it (log entry 7) -/
  | malformed
deriving DecidableEq, Repr, Inhabited

/-- The WriteCommand a WC record stands for (R51). A record with an illegal tag (R52), or with another number of fields
than its variant has, is an `unknown` record. -/
def decodeWC (r : WCRecord) : WriteCommand :=
  match r.tag.toNat, r.fields with
  | 0x00, [b, a, v, w] => .reg b a v w
  | 0x01, [b, a, v, m] => .regMask b a v m
  | 0x02, [p, a, v, w] => .demodReg p a v w
  | 0x03, [d, a, v] => .i2cReg d a v
  | _, fs => .unknown r.tag fs

/-- An operand where R57 has an integer: a whole rational is that integer, since operands are values. -/
def wholeOperand : Operand → Operand
  | .rat q => if q.den = 1 then .int q.num else .rat q
  | o => o

/-- An operand where R57 has a rational: an integer is a rational. -/
def rationalOperand : Operand → Operand
  | .int z => .rat z
  | o => o

/-- An operand where R57 has a bool, which R101 has as 0 or 1 on the command port. -/
def flagOperand (o : Operand) : Operand :=
  match wholeOperand o with
  | .int z => if z = 0 then .bool false else if z = 1 then .bool true else o
  | _ => o

/-- An operand in the type R57 gives the operands of its opcode, where a value of that type is the same value. -/
def canonicalOperand (opcode : Byte) (o : Operand) : Operand :=
  match opcode.toNat with
  | 0x26 | 0x27 => flagOperand o
  | 0x29 | 0x43 => rationalOperand o
  | _ => wholeOperand o

/-- A record with its operands in the types of R57. DEDUCED (log entry 28): R57 has operands as values, R58 has `gainDb`
as any rational and a frequency as any integer, and R101 has its bool as 0 or 1, so the type a value is written in does
not matter. -/
def Record.canonical (r : Record) : Record := ⟨r.opcode, r.operands.map (canonicalOperand r.opcode)⟩

/-- A record of either format with its operands in the types of its table; the fields of a WC record are integers (R51). -/
def Form.canonical : Form → Form
  | .cmd r => .cmd r.canonical
  | .wc r => .wc r

/-- Reads a CMD record whose operands are in the types of R57. Every opcode outside the table is reserved (R59). DESIGN
CHOICE (log entry 7): a table opcode with operands of another number or type is malformed. -/
def decodeCanonical (r : Record) : Decoded :=
  match r.opcode.toNat with
  | 0x01 => match r.operands with
    | [.int b, .int a, .int v, .int w] => .instr (.writeReg b a v w)
    | _ => .malformed
  | 0x02 => match r.operands with
    | [.int b, .int a, .int w] => .instr (.readReg b a w)
    | _ => .malformed
  | 0x03 => match r.operands with
    | [.int b, .int a, .int v, .int m] => .instr (.writeRegMask b a v m)
    | _ => .malformed
  | 0x04 => match r.operands with
    | [.int p, .int a, .int v, .int w] => .instr (.writeDemodReg p a v w)
    | _ => .malformed
  | 0x05 => match r.operands with
    | [.int p, .int a] => .instr (.readDemodReg p a)
    | _ => .malformed
  | 0x06 => match r.operands with
    | [] => .instr .openI2C
    | _ => .malformed
  | 0x07 => match r.operands with
    | [] => .instr .closeI2C
    | _ => .malformed
  | 0x08 => match r.operands with
    | [.int d, .int a] => .instr (.readI2CReg d a)
    | _ => .malformed
  | 0x09 => match r.operands with
    | [.int d, .int a, .int v] => .instr (.writeI2CReg d a v)
    | _ => .malformed
  | 0x0A => match r.operands with
    | [.int d, .int a, .int n] => .instr (.readI2CRegBuffer d a n)
    | _ => .malformed
  | 0x0B => match r.operands with
    | [.int d, .int a, .bytes bs] => .instr (.writeI2CRegBuffer d a bs)
    | _ => .malformed
  | 0x0C => match r.operands with
    | [.records rs] => .instr (.writeEach (rs.map decodeWC))
    | _ => .malformed
  | 0x0D => match r.operands with
    | [] => .instr .claimInterface
    | _ => .malformed
  | 0x0E => match r.operands with
    | [] => .instr .releaseInterface
    | _ => .malformed
  | 0x0F => match r.operands with
    | [.int n] => .instr (.readBulk n)
    | _ => .malformed
  | 0x20 => match r.operands with
    | [] => .instr .tunerCheck
    | _ => .malformed
  | 0x21 => match r.operands with
    | [] => .instr .tunerInit
    | _ => .malformed
  | 0x22 => match r.operands with
    | [] => .instr .tunerInitElectronics
    | _ => .malformed
  | 0x23 => match r.operands with
    | [.int f] => .instr (.tunerSetFrequency f)
    | _ => .malformed
  | 0x24 => match r.operands with
    | [.int f] => .instr (.tunerSetMux f)
    | _ => .malformed
  | 0x25 => match r.operands with
    | [.int f] => .instr (.tunerSetPll f)
    | _ => .malformed
  | 0x26 => match r.operands with
    | [.bool b] => .instr (.tunerGetPllLock b)
    | _ => .malformed
  | 0x27 => match r.operands with
    | [.bool b] => .instr (.tunerCalibrateFilter b)
    | _ => .malformed
  | 0x28 => match r.operands with
    | [] => .instr .tunerSetAutoGain
    | _ => .malformed
  | 0x29 => match r.operands with
    | [.rat g] => .instr (.tunerSetManualGain g)
    | _ => .malformed
  | 0x2A => match r.operands with
    | [.int a, .int n] => .instr (.tunerReadRegBuffer a n)
    | _ => .malformed
  | 0x2B => match r.operands with
    | [.int a, .int v, .int m] => .instr (.tunerWriteRegMask a v m)
    | _ => .malformed
  | 0x2C => match r.operands with
    | [] => .instr .tunerClose
    | _ => .malformed
  | 0x40 => match r.operands with
    | [] => .instr .controllerOpen
    | _ => .malformed
  | 0x41 => match r.operands with
    | [.int f] => .instr (.setSampleRate f)
    | _ => .malformed
  | 0x42 => match r.operands with
    | [.int f] => .instr (.setCenterFrequency f)
    | _ => .malformed
  | 0x43 => match r.operands with
    | [.rat g] => .instr (.setGain (some g))
    | [.absent] => .instr (.setGain none)
    | _ => .malformed
  | 0x44 => match r.operands with
    | [] => .instr .resetBuffer
    | _ => .malformed
  | 0x45 => match r.operands with
    | [.int n] => .instr (.readSamples n)
    | _ => .malformed
  | 0x46 => match r.operands with
    | [] => .instr .controllerClose
    | _ => .malformed
  | _ => .reserved

/-- Reads a CMD record (R57). -/
def decodeCmd (r : Record) : Decoded := decodeCanonical r.canonical

/-- Reads a record of either format. An unknown WC record stands for no instruction: its tag is illegal (R52), or its
number of fields is not its variant's. -/
def decode : Form → Decoded
  | .cmd r => decodeCmd r
  | .wc r =>
    match (decodeWC r).instr with
    | some i => .instr i
    | none => if (fieldCount r.tag).isSome then .malformed else .reserved

/-- The WC record of a WriteCommand (R51). -/
def encodeWC : WriteCommand → WCRecord
  | .reg b a v w => ⟨0x00, [b, a, v, w]⟩
  | .regMask b a v m => ⟨0x01, [b, a, v, m]⟩
  | .demodReg p a v w => ⟨0x02, [p, a, v, w]⟩
  | .i2cReg d a v => ⟨0x03, [d, a, v]⟩
  | .unknown t fs => ⟨t, fs⟩

/-- The record of an instruction: its opcode byte and operands by R57, its tag byte and fields by R51. -/
def encode : Instr → Form
  | .writeReg b a v w => .cmd ⟨0x01, [.int b, .int a, .int v, .int w]⟩
  | .readReg b a w => .cmd ⟨0x02, [.int b, .int a, .int w]⟩
  | .writeRegMask b a v m => .cmd ⟨0x03, [.int b, .int a, .int v, .int m]⟩
  | .writeDemodReg p a v w => .cmd ⟨0x04, [.int p, .int a, .int v, .int w]⟩
  | .readDemodReg p a => .cmd ⟨0x05, [.int p, .int a]⟩
  | .openI2C => .cmd ⟨0x06, []⟩
  | .closeI2C => .cmd ⟨0x07, []⟩
  | .readI2CReg d a => .cmd ⟨0x08, [.int d, .int a]⟩
  | .writeI2CReg d a v => .cmd ⟨0x09, [.int d, .int a, .int v]⟩
  | .readI2CRegBuffer d a n => .cmd ⟨0x0A, [.int d, .int a, .int n]⟩
  | .writeI2CRegBuffer d a bs => .cmd ⟨0x0B, [.int d, .int a, .bytes bs]⟩
  | .writeEach cs => .cmd ⟨0x0C, [.records (cs.map encodeWC)]⟩
  | .claimInterface => .cmd ⟨0x0D, []⟩
  | .releaseInterface => .cmd ⟨0x0E, []⟩
  | .readBulk n => .cmd ⟨0x0F, [.int n]⟩
  | .tunerCheck => .cmd ⟨0x20, []⟩
  | .tunerInit => .cmd ⟨0x21, []⟩
  | .tunerInitElectronics => .cmd ⟨0x22, []⟩
  | .tunerSetFrequency f => .cmd ⟨0x23, [.int f]⟩
  | .tunerSetMux f => .cmd ⟨0x24, [.int f]⟩
  | .tunerSetPll f => .cmd ⟨0x25, [.int f]⟩
  | .tunerGetPllLock b => .cmd ⟨0x26, [.bool b]⟩
  | .tunerCalibrateFilter b => .cmd ⟨0x27, [.bool b]⟩
  | .tunerSetAutoGain => .cmd ⟨0x28, []⟩
  | .tunerSetManualGain g => .cmd ⟨0x29, [.rat g]⟩
  | .tunerReadRegBuffer a n => .cmd ⟨0x2A, [.int a, .int n]⟩
  | .tunerWriteRegMask a v m => .cmd ⟨0x2B, [.int a, .int v, .int m]⟩
  | .tunerClose => .cmd ⟨0x2C, []⟩
  | .controllerOpen => .cmd ⟨0x40, []⟩
  | .setSampleRate f => .cmd ⟨0x41, [.int f]⟩
  | .setCenterFrequency f => .cmd ⟨0x42, [.int f]⟩
  | .setGain (some g) => .cmd ⟨0x43, [.rat g]⟩
  | .setGain none => .cmd ⟨0x43, [.absent]⟩
  | .resetBuffer => .cmd ⟨0x44, []⟩
  | .readSamples n => .cmd ⟨0x45, [.int n]⟩
  | .controllerClose => .cmd ⟨0x46, []⟩
  | .wcReg b a v w => .wc (encodeWC (.reg b a v w))
  | .wcRegMask b a v m => .wc (encodeWC (.regMask b a v m))
  | .wcDemodReg p a v w => .wc (encodeWC (.demodReg p a v w))
  | .wcI2CReg d a v => .wc (encodeWC (.i2cReg d a v))

/-- Zero operands of the types R57 gives an opcode; none where the opcode is reserved. -/
def zeroOperands (opcode : Nat) : Option (List Operand) :=
  match opcode with
  | 0x01 | 0x03 | 0x04 => some [.int 0, .int 0, .int 0, .int 0]
  | 0x02 | 0x09 | 0x0A | 0x2B => some [.int 0, .int 0, .int 0]
  | 0x05 | 0x08 | 0x2A => some [.int 0, .int 0]
  | 0x0F | 0x23 | 0x24 | 0x25 | 0x41 | 0x42 | 0x45 => some [.int 0]
  | 0x0B => some [.int 0, .int 0, .bytes []]
  | 0x0C => some [.records []]
  | 0x26 | 0x27 => some [.bool false]
  | 0x29 | 0x43 => some [.rat 0]
  | 0x06 | 0x07 | 0x0D | 0x0E | 0x20 | 0x21 | 0x22 | 0x28 | 0x2C | 0x40 | 0x44 | 0x46 => some []
  | _ => none

/-- The record a table word stands for. The table gives a row the bits of its opcode or tag byte only; the operands
are then zeros. A byte that is an opcode of the command port is a CMD record. The remaining tag, 0x00, is a WC
record; the tags 0x01..0x03 are opcodes too, and the table's eight bits cannot tell them apart (log entry 8). -/
def tableForm (w : Nat) : Form :=
  match zeroOperands w with
  | some ops => .cmd ⟨BitVec.ofNat 8 w, ops⟩
  | none => if w = 0 then .wc ⟨0x00, [0, 0, 0, 0]⟩ else .cmd ⟨BitVec.ofNat 8 w, []⟩

/-- The instruction the decoder reads from a table word of `nbits` bits. -/
def decodeTableWord (nbits w : Nat) : Option Instr :=
  if nbits = 8 ∧ w < 256 then
    match decode (tableForm w) with
    | .instr i => some i
    | .reserved => none
    | .malformed => none
  else none

end Sys2Proof
end

