-- ==== Sys2Proof/Config.lean ====
section
/-! DEFINITION. What is fixed for one machine (R7): the configuration a block is constructed with, as plain
data, and the transport's answer where no answer has been supplied, as a constant with no body. The parameters
whose value the source gives are constants of `Sys2Proof/Machine/Parameters.lean`. A parameter R7 marks OPEN is a
field here; the four that R7 writes as functions of a number are formulas and lists of records built with a comparison
(log entry 6). -/

namespace Sys2Proof

/-- An integer formula in one argument: how a configuration gives a parameter that R7 writes as a function, such
as `PPM_OFFSET(ppm)`. `ifLe a b t e` is `t` where `a <= b` and `e` elsewhere, so every function on a bounded range
has a formula. -/
inductive Formula where
  | arg
  | const (z : Int)
  | add (a b : Formula)
  | sub (a b : Formula)
  | mul (a b : Formula)
  /-- division rounded toward minus infinity -/
  | fdiv (a b : Formula)
  /-- the remainder of `fdiv` -/
  | fmod (a b : Formula)
  /-- division rounded toward zero -/
  | tdiv (a b : Formula)
  | ifLe (a b t e : Formula)
deriving DecidableEq, Repr, Inhabited

/-- A WriteCommand whose fields are formulas in the argument of `IF_WRITES(m)`, `SR_RATIO_WRITES(ratio)` or
`PPM_WRITES(o)`. The fields of an unknown record are not read (R52), so they are plain; so is the device of an I2CReg
record, which R85 constrains. -/
inductive WriteTemplate where
  | reg (block reg value width : Formula)
  | regMask (block reg value mask : Formula)
  | demodReg (page addr value width : Formula)
  | i2cReg (dev : Int) (reg value : Formula)
  | unknown (tag : Byte) (fields : List Int)
deriving DecidableEq, Repr, Inhabited

/-- A WriteCommand list as a function of one argument. `ifLe a b t e` is `t` where `a <= b` and `e` elsewhere, so the
number and the kinds of the records may depend on the argument: every function from a bounded range to WriteCommand
lists is given by one of these (`evalBatch_complete`). -/
inductive BatchFormula where
  | nil
  | cons (record : WriteTemplate) (rest : BatchFormula)
  | ifLe (a b : Formula) (t e : BatchFormula)
deriving DecidableEq, Repr, Inhabited

/-- `W(a, v, m)`, a tuner masked write (R84). -/
structure MaskedWrite where
  addr : Int
  value : Int
  mask : Int
deriving DecidableEq, Repr, Inhabited

/-- An item of a tuner write list (R84). Only `INIT_ELEC_POST` may hold a `fold` (R8), so it alone is a list of
these; the other lists hold `MaskedWrite`s. -/
inductive TunerItem where
  | write (w : MaskedWrite)
  | fold (addr base mask : Int)
deriving DecidableEq, Repr, Inhabited

/-- One entry `(thresholdMHz, v0, v1, v2, v3)` of `MUX_TABLE` (R89). -/
structure MuxEntry where
  threshold : Rat
  v0 : Int
  v1 : Int
  v2 : Int
  v3 : Int
deriving DecidableEq, Repr, Inhabited

/-- A register and the mask of a field in it (`MUX_FIELDS`). -/
structure RegField where
  reg : Int
  mask : Int
deriving DecidableEq, Repr, Inhabited

/-- A register and a whole-byte value (`STANDBY_TABLE`). -/
structure RegValue where
  reg : Int
  value : Int
deriving DecidableEq, Repr, Inhabited

/-- A cubic `c0 + c1 g + c2 g^2 + c3 g^3` (`GAIN_POLY_LO`, `GAIN_POLY_HI`; R106). -/
structure Cubic where
  c0 : Rat
  c1 : Rat
  c2 : Rat
  c3 : Rat
deriving DecidableEq, Repr, Inhabited

/-- `I2C_WRITE_FORM` (R32). -/
inductive I2CWriteForm where
  | twoPhase
  | combined
deriving DecidableEq, Repr, Inhabited

/-- `BITREV_MODE` (R81). -/
inductive BitrevMode where
  | inPlace
  | fullByte
deriving DecidableEq, Repr, Inhabited

/-- The classes of the VCO fine-tune indicator (R94). -/
inductive VcoClass where
  | fast
  | nominal
  | slow
deriving DecidableEq, Repr, Inhabited

/-- The configuration (R7). Field names are the parameter names of R7 in lower camel case. -/
structure Config where
  /-- `BLOCK_ID(b)`, the `wIndex` base of each block. -/
  blockIdDemod : Half
  blockIdUsb : Half
  blockIdSys : Half
  blockIdI2C : Half
  i2cWriteForm : I2CWriteForm
  bitrevMode : BitrevMode
  initImage : List Int
  initElecPre : List MaskedWrite
  initElecPost : List TunerItem
  standbyTable : List RegValue
  muxTable : List MuxEntry
  muxFields : List RegField
  setpllPre : List MaskedWrite
  ftAddr : Nat
  ftLen : Nat
  ftByte : Nat
  /-- `FT_CLASS` as its table: entry `b` is the class of byte `b`. -/
  ftClass : List VcoClass
  divReg : Int
  divShift : Nat
  divMask : Int
  nisiReg : Int
  fracReg : Int
  fracMask : Int
  fracValInt : Int
  fracValFrac : Int
  sdmHiReg : Int
  sdmLoReg : Int
  lockAddr : Nat
  vcoselReg : Int
  vcoselVal : Int
  vcoselMask : Int
  postlockReg : Int
  postlockVal : Int
  postlockMask : Int
  calPre : List MaskedWrite
  calPost : List MaskedWrite
  calAddr : Nat
  autoGainWrites : List MaskedWrite
  manualGainPre : List MaskedWrite
  lnaReg : Int
  lnaShift : Nat
  lnaMask : Int
  mixReg : Int
  mixShift : Nat
  mixMask : Int
  gainPolyLo : Cubic
  gainPolyHi : Cubic
  usbConfigBatch : List WriteCommand
  demodInitBatch : List WriteCommand
  /-- `IF_WRITES(m)`. -/
  ifWrites : BatchFormula
  /-- `SR_RATIO_WRITES(ratio)`. -/
  srRatioWrites : BatchFormula
  /-- `PPM_OFFSET(ppm)`. -/
  ppmOffset : Formula
  /-- `PPM_WRITES(o)`. -/
  ppmWrites : BatchFormula
  softReset : List WriteCommand
  epaReset : List WriteCommand
  /-- Whether internal commands are accepted on the command port (R138). -/
  testPort : Bool
deriving DecidableEq, Repr, Inhabited

/-- The five transport primitives (R14). -/
inductive Primitive where
  /-- `CtrlOut(value16, index16, bytes)` -/
  | ctrlOut (value index : Half) (data : List Byte)
  /-- `CtrlIn(value16, index16, n)` -/
  | ctrlIn (value index : Half) (n : Nat)
  /-- `BulkIn(ep, n)` -/
  | bulkIn (ep n : Nat)
  /-- `Claim(i)` -/
  | claim (iface : Nat)
  /-- `Release(i)` -/
  | release (iface : Nat)
deriving DecidableEq, Repr, Inhabited

/-- The `cause` of a transport failure (R128): the opaque value the transport chose, kept as a number that no
rule reads, or the block's own `ShortTransfer`. -/
inductive Cause where
  | transport (code : Nat)
  | shortTransfer
deriving DecidableEq, Repr, Inhabited

/-- The transport's answer to a primitive (R14): `ok` with the bytes read (none for a write, a claim or a
release), or `fail(cause)`. -/
inductive Answer where
  | ok (data : List Byte)
  | fail (code : Nat)
deriving DecidableEq, Repr, Inhabited

/-- The transport is an oracle (R37): the answer to the `k`-th primitive of a run, where the state's list of
answers holds none for it. A free value: no proof can see it (log entry 4). -/
opaque Config.transport : Nat → Primitive → Answer

/-- The crystal frequency an operation reads while `xtalFreq` is `undef`. No reachable state reads it (R92). A free
value (log entry 9). -/
opaque Config.undefinedCrystal : Rat

end Sys2Proof
end

