-- ==== Sys2Proof/Machine/Parameters.lean ====
section
/-! DEFINITION. The parameters of R7 whose value the source or the specification gives, and the configuration
`State.reset` is constructed with. Each constant is named by its parameter of R7. -/

namespace Sys2Proof.Machine

def XTAL : Int := 28800000
def IF_FREQ : Int := 3570000
def VCO_MIN : Int := 1770000000
def DIV_CLAMP : Int := 6
def NINT_MAX : Int := 63
def NINT_BASE : Int := 13
def SDM_MAX : Int := 65535
def CAL_FREQ : Int := 56000000
def TUNER_I2C_ADDR : Int := 0x34
def TUNER_CHIP_ID : Byte := 0x69
def SHADOW_LO : Int := 0x05
def SHADOW_HI : Int := 0x1F
def POLL_PAGE : Int := 0x0A
def POLL_ADDR : Int := 0x01
def REPEATER_PAGE : Int := 1
def REPEATER_ADDR : Int := 1
def REPEATER_OPEN : Int := 0x18
def REPEATER_CLOSE : Int := 0x10
def WRITE_FLAG : Half := 0x10
def DEMOD_SUFFIX : Half := 0x20
def USB_REQUEST : Byte := 0
/-- Vendor request, device recipient, host to device: the specification's choice, from general knowledge (R7, D7). -/
def REQTYPE_OUT : Byte := 0x40
/-- Vendor request, device recipient, device to host: as `REQTYPE_OUT`. -/
def REQTYPE_IN : Byte := 0xC0
def USB_INTERFACE : Nat := 0
def BULK_EP : Nat := 1
def LOCK_LEN : Nat := 3
def LOCK_BYTE : Nat := 2
def LOCK_BIT : Byte := 0x40
def CAL_LEN : Nat := 5
def CAL_BYTE : Nat := 4
def CAL_SENTINEL : Byte := 0x0F
def GAIN_SPLIT : Rat := 15
def STEP_MAX : Int := 30

/-- `FT_CLASS` of the test configuration: with `t = (b & 0x30) >> 4`, FAST for `t > 2`, SLOW for `t < 2`, NOMINAL
for `t = 2` (93 I6), as a table of the 256 bytes. -/
def fixtureFtClass : List VcoClass :=
  (List.range 256).map fun b =>
    if b / 16 % 4 < 2 then .slow else if b / 16 % 4 = 2 then .nominal else .fast

/-- The batch of a list of templates, the same for every argument. -/
def batchOf : List WriteTemplate → BatchFormula
  | [] => .nil
  | t :: ts => .cons t (batchOf ts)

/-- `IF_WRITES(m)` of the test configuration: the 22-bit two's complement of m in three demodulator registers
(93 I13). -/
def fixtureIfWrites : BatchFormula :=
  let u : Formula := .fmod .arg (.const 0x400000)
  batchOf [.demodReg (.const 1) (.const 0x19) (.fdiv u (.const 0x10000)) (.const 1),
   .demodReg (.const 1) (.const 0x1A) (.fmod (.fdiv u (.const 0x100)) (.const 0x100)) (.const 1),
   .demodReg (.const 1) (.const 0x1B) (.fmod u (.const 0x100)) (.const 1)]

/-- `SR_RATIO_WRITES(ratio)` of the test configuration (93 I16). -/
def fixtureSrRatioWrites : BatchFormula :=
  batchOf [.demodReg (.const 1) (.const 0x9F) (.fdiv .arg (.const 0x10000)) (.const 2),
   .demodReg (.const 1) (.const 0xA1) (.fmod .arg (.const 0x10000)) (.const 2)]

/-- `PPM_OFFSET(ppm) = -trunc(ppm * 2^24 / 10^6)` of the test configuration (93 I17). -/
def fixturePpmOffset : Formula :=
  .sub (.const 0) (.tdiv (.mul .arg (.const 0x1000000)) (.const 1000000))

/-- `PPM_WRITES(o)` of the test configuration (93 I17). -/
def fixturePpmWrites : BatchFormula :=
  batchOf [.demodReg (.const 1) (.const 0x3F) (.fmod .arg (.const 0x100)) (.const 1),
   .demodReg (.const 1) (.const 0x3E) (.fmod (.fdiv .arg (.const 0x100)) (.const 0x40)) (.const 1)]

/-- The specification's test configuration TC (95 section 2). Nothing in it is a claim about the chips. It is the
configuration `State.reset` is constructed with (DESIGN CHOICE, log entry 1): every rule reads the configuration
from the state, and no statement rests on these values. -/
def Config.fixture : Config where
  blockIdDemod := 0x0000
  blockIdUsb := 0x0100
  blockIdSys := 0x0200
  blockIdI2C := 0x0600
  i2cWriteForm := .twoPhase
  bitrevMode := .inPlace
  initImage := [0x83, 0x32, 0x75, 0xC0, 0x40, 0xD6, 0x6C, 0xF5, 0x63, 0x75, 0x68, 0x6C, 0x83, 0x80, 0x00, 0x0F,
    0x00, 0xC0, 0x30, 0x48, 0xCC, 0x60, 0x00, 0x54, 0xAE, 0x4A, 0xC0]
  initElecPre := [⟨0x0C, 0x00, 0x0F⟩, ⟨0x13, 0x31, 0x3F⟩, ⟨0x1D, 0x00, 0x38⟩]
  initElecPost := [.fold 0x0A 0x10 0x1F]
  standbyTable := [⟨0x06, 0xB1⟩, ⟨0x05, 0x03⟩, ⟨0x07, 0x3A⟩, ⟨0x08, 0x40⟩, ⟨0x09, 0xC0⟩, ⟨0x0A, 0x36⟩,
    ⟨0x0C, 0x35⟩, ⟨0x0F, 0x68⟩, ⟨0x11, 0x03⟩, ⟨0x17, 0xF4⟩, ⟨0x19, 0x0C⟩]
  muxTable := [⟨0, 0x08, 0x02, 0xDF, 0x02⟩, ⟨50, 0x08, 0x02, 0xBE, 0x02⟩, ⟨588, 0x00, 0x40, 0x00, 0x00⟩]
  muxFields := [⟨0x17, 0x08⟩, ⟨0x1A, 0xC3⟩, ⟨0x1B, 0xFF⟩, ⟨0x10, 0x0B⟩]
  setpllPre := []
  ftAddr := 0x00
  ftLen := 5
  ftByte := 4
  ftClass := fixtureFtClass
  divReg := 0x10
  divShift := 5
  divMask := 0xE0
  nisiReg := 0x14
  fracReg := 0x12
  fracMask := 0x08
  fracValInt := 0x08
  fracValFrac := 0x00
  sdmHiReg := 0x16
  sdmLoReg := 0x15
  lockAddr := 0x00
  vcoselReg := 0x12
  vcoselVal := 0x60
  vcoselMask := 0xE0
  postlockReg := 0x1A
  postlockVal := 0x08
  postlockMask := 0x08
  calPre := [⟨0x0B, 0x6B, 0x60⟩, ⟨0x0F, 0x04, 0x04⟩, ⟨0x10, 0x00, 0x03⟩]
  calPost := [⟨0x0B, 0x10, 0x10⟩, ⟨0x0B, 0x00, 0x10⟩, ⟨0x0F, 0x00, 0x04⟩]
  calAddr := 0x00
  autoGainWrites := [⟨0x05, 0x00, 0x10⟩, ⟨0x07, 0x10, 0x10⟩, ⟨0x0C, 0x0B, 0x9F⟩]
  manualGainPre := [⟨0x05, 0x10, 0x10⟩, ⟨0x07, 0x00, 0x10⟩, ⟨0x0C, 0x08, 0x9F⟩]
  lnaReg := 0x05
  lnaShift := 0
  lnaMask := 0x0F
  mixReg := 0x07
  mixShift := 0
  mixMask := 0x0F
  gainPolyLo := ⟨0, 1, 0, 0⟩
  gainPolyHi := ⟨0, 1, 0, 0⟩
  usbConfigBatch := [.reg 1 0x2000 0x09 1, .reg 1 0x2158 0x0200 2, .reg 1 0x2148 0x0210 2]
  demodInitBatch := [.demodReg 1 0xB1 0x1B 1]
  ifWrites := fixtureIfWrites
  srRatioWrites := fixtureSrRatioWrites
  ppmOffset := fixturePpmOffset
  ppmWrites := fixturePpmWrites
  softReset := [.demodReg 1 0x01 0x14 1, .demodReg 1 0x01 0x10 1]
  epaReset := [.reg 1 0x2148 0x0210 2, .reg 1 0x2148 0x0000 2]
  testPort := false

end Sys2Proof.Machine
end

