-- ==== Sys2Proof/Machine/State.lean ====
section
/-! DEFINITION. The state of the block: the twelve persistent items S0..S11 (R18), the micro-step position
(R25, R26), the two ports it stands between (R5), and the ways a step can stop (R130). -/

namespace Sys2Proof.Machine

/-- S0, the session machine (R19). -/
inductive Session where
  | idle
  | opened
  | closed
  | failed
deriving DecidableEq, Repr, Inhabited

/-- S6, the tuning state machine (R22, R102). -/
inductive PllState where
  | unlocked
  | attempt1
  | attempt2
  | locked
deriving DecidableEq, Repr, Inhabited

/-- The four register blocks (R30, R53). -/
inductive Block where
  | demod
  | usb
  | sys
  | i2c
deriving DecidableEq, Repr, Inhabited

/-- What an operation returns (the result column of R57). -/
inductive Value where
  | unit
  | int (z : Int)
  | byte (b : Byte)
  | bool (b : Bool)
  | bytes (bs : List Byte)
  | rat (q : Rat)
deriving DecidableEq, Repr, Inhabited

/-- The `direction` of a failed transfer (R128). -/
inductive Direction where
  | dirOut
  | dirIn
  | dirClaim
  | dirRelease
deriving DecidableEq, Repr, Inhabited

/-- The source's seven error kinds with their records (R127, R128). An error is an answer on the command port. -/
inductive Error where
  | usbTransferFailed (direction : Direction) (registerValue registerIndex : Half) (cause : Cause)
  | usbBulkReadFailed (requestedLength : Nat) (cause : Cause)
  | unsupportedTunerChip
  | pllNotLocked
  | unsupportedRegisterWidth
  | unsupportedOperation
  /-- Never raised by the block (R129). -/
  | deviceNotFound
deriving DecidableEq, Repr, Inhabited

/-- The model faults (R130): the block has reached a case the source gives no meaning to, and no step leaves it
(R131). Each is safe: the machine stops where the specification says it does. -/
inductive Fault where
  /-- Raised by an external command in the wrong session state (R112). Safe. -/
  | wrongSessionState
  /-- Raised by an internal command that the test port does not accept (R138). Safe. -/
  | notPermitted
  /-- Raised by the command port on a reserved opcode (R59). Safe. -/
  | unknownCommand
  /-- Raised by an operation on an operand outside its range (R58), and on operands that are not of the number and types
  its record has (R57, log entry 7). Safe. -/
  | valueOutOfRange
  /-- Raised by the demodulator register operations on a page outside 0..15 (R31). Safe. -/
  | invalidPage
  /-- Raised by the tuner masked write outside 0x05..0x1F (R83). Safe. -/
  | shadowAddressOutOfRange
  /-- Raised by the tuner masked write to a cell that holds `undef` (R20, R83). Safe. -/
  | shadowUninitialised
  /-- Raised by the tuning operations on a frequency they do not accept (R90, R91, R92, R121). Safe. -/
  | frequencyOutOfRange
  /-- Raised by `setPll` on nint < 13 (R96). Safe. -/
  | nintBelowRange
  /-- Raised by an I2C operation while the repeater is closed (R71). Safe. -/
  | i2cNotOpen
  /-- Raised by `readBulk` without the interface claimed (R78). Safe. -/
  | interfaceNotClaimed
  /-- Raised by `readSamples` before `resetBuffer` (R123, R152). Safe. -/
  | streamNotReset
  /-- Raised on a length or count below 1 (R73, R74, R78, R123). Safe. -/
  | invalidLength
  /-- Raised by `setSampleRate` on a rate <= 0 or a masked ratio of 0 (R118, R119). Safe. -/
  | invalidSampleRate
  /-- Raised by every step of a block whose configuration is ill-formed (R8). Safe. -/
  | invalidConfiguration
  /-- Raised by a tuner operation before a matching probe (R79). Safe. -/
  | tunerNotPresent
deriving DecidableEq, Repr, Inhabited

/-- The ways the model declines to give a meaning. -/
inductive Refusal where
  /-- Raised by `exec` for an instruction that has no meaning in this model. Safe. No arm answers it. -/
  | notModelled (mnemonic : String)
deriving DecidableEq, Repr, Inhabited

/-- An answer on the command port (R60): `ok(r)` or `err(E, info)`. -/
inductive Response where
  | ok (v : Value)
  | err (e : Error)
deriving DecidableEq, Repr, Inhabited

/-- The operations with their operands (R16, R26): the commands of R57, and the two shared sub-operations that have
no opcode, `tunerBatch` (R84) and `setGainInner` (R117). -/
inductive Op where
  | writeReg (block reg value width : Int)
  | readReg (block reg width : Int)
  | writeRegMask (block reg value mask : Int)
  | writeDemodReg (page addr value width : Int)
  | readDemodReg (page addr : Int)
  | openI2C
  | closeI2C
  | readI2CReg (dev reg : Int)
  | writeI2CReg (dev reg value : Int)
  | readI2CRegBuffer (dev reg n : Int)
  | writeI2CRegBuffer (dev reg : Int) (bytes : List Byte)
  | writeEach (commands : List WriteCommand)
  | claimInterface
  | releaseInterface
  | readBulk (n : Int)
  | tunerCheck
  | tunerInit
  | tunerInitElectronics
  | tunerSetFrequency (freq : Int)
  | tunerSetMux (freq : Int)
  | tunerSetPll (freq : Int)
  | tunerGetPllLock (first : Bool)
  | tunerCalibrateFilter (first : Bool)
  | tunerSetAutoGain
  | tunerSetManualGain (gainDb : Rat)
  | tunerReadRegBuffer (addr n : Int)
  | tunerWriteRegMask (addr value mask : Int)
  | tunerClose
  | tunerBatch (items : List MaskedWrite)
  | controllerOpen
  | setSampleRate (rateHz : Int)
  | setCenterFrequency (freqHz : Int)
  | setGain (gain : Option Rat)
  | setGainInner (gain : Option Rat)
  | resetBuffer
  | readSamples (count : Int)
  | controllerClose
deriving DecidableEq, Repr, Inhabited

/-- The two attempts of `getPllLock` (R101). -/
inductive Attempt where
  | first
  | second
deriving DecidableEq, Repr, Inhabited

/-- A frame (R26): the operation in progress, the index of the next statement of its pseudocode, and the locals
(R25) that are live there. A constructor is one operation at one statement where it waits: for the transport's
answer, or for a sub-operation's result. `enter op` is an operation at its first statement. -/
inductive Frame where
  | enter (op : Op)
  /-- R64: the transfer is answered; return. -/
  | writeRegDone
  /-- R65: `d` has been read; decode and return it. -/
  | readRegData
  /-- R66: `old` has been read; write the masked byte. -/
  | writeRegMaskRead (block reg value mask : Int)
  | writeRegMaskDone
  /-- R67: the write is answered; poll. -/
  | writeDemodRegPoll
  | writeDemodRegDone
  /-- R68. -/
  | readDemodRegData
  /-- R69: the repeater write is complete; set `i2cOpen`. -/
  | openI2CDone
  /-- R70: the repeater write is complete; clear `i2cOpen`. -/
  | closeI2CDone
  /-- R71: the index is selected; read the value. -/
  | readI2CRegSelected (dev : Int)
  | readI2CRegData
  /-- R72: the index is selected; write the value. -/
  | writeI2CRegSelected (dev value : Int)
  | writeI2CRegDone
  /-- R73: the index is selected; read the buffer. -/
  | readI2CRegBufferSelected (dev n : Int)
  | readI2CRegBufferData
  /-- R74: the index is selected; write the buffer. -/
  | writeI2CRegBufferSelected (dev : Int) (bytes : List Byte)
  | writeI2CRegBufferDone
  /-- R75: at the head of the loop, with the records still to apply. -/
  | writeEachNext (rest : List WriteCommand)
  /-- R76. -/
  | claimInterfaceDone
  /-- R77. -/
  | releaseInterfaceDone
  /-- R78. -/
  | readBulkData
  /-- R80: compare the chip id. -/
  | tunerCheckRead
  /-- R86: at the head of the image loop, at index `i`. -/
  | tunerInitNext (i : Nat)
  | tunerInitDone
  /-- R87: `INIT_ELEC_PRE` is applied; calibrate. -/
  | initElectronicsPreDone
  /-- R87: the code is known; apply `INIT_ELEC_POST`. -/
  | initElectronicsCalibrated
  | initElectronicsDone
  /-- R91: the multiplexer is set; synthesize. -/
  | setFrequencyMuxDone (freq : Int)
  | setFrequencyPllDone
  /-- R90: at the head of the field loop. -/
  | setMuxNext (rest : List MaskedWrite)
  /-- R92: `SETPLL_PRE` is applied; read the fine-tune indicator. -/
  | setPllPreDone (freq d0 : Int) (mixDiv : Rat)
  /-- R92 step 2: the indicator is read; write the divider. -/
  | setPllFineTune (freq d0 : Int) (mixDiv : Rat)
  /-- R92 step 4: the divider is written; compute the parameters. -/
  | setPllDividerDone (freq : Int) (mixDiv : Rat)
  /-- R92 step 5: the packed byte is written; write the fractional-mode field. -/
  | setPllNisiDone (mixDiv : Rat) (nint : Int) (vcoFra : Rat)
  /-- R92 step 6: compute the sigma-delta word and write its high byte. -/
  | setPllFracDone (mixDiv : Rat) (nint : Int) (vcoFra : Rat)
  /-- R92 step 6: write the low byte. -/
  | setPllSdmHiDone (mixDiv : Rat) (nint sdm : Int)
  /-- R92 step 7: poll the lock. -/
  | setPllSdmLoDone (mixDiv : Rat) (nint sdm : Int)
  /-- R92 step 7: write the post-lock field. -/
  | setPllLockDone (mixDiv : Rat) (nint sdm : Int)
  /-- R92 step 8: return the achieved frequency. -/
  | setPllPostLockDone (mixDiv : Rat) (nint sdm : Int)
  /-- R101: the lock status is read. -/
  | getPllLockRead (attempt : Attempt)
  /-- R101: the nudge is written; try the second attempt. -/
  | getPllLockNudged
  /-- R103: `CAL_PRE` is applied; synthesize. `again` says that another pass is still allowed. -/
  | calibratePreDone (again : Bool)
  /-- R103: the synthesis has returned; test the lock. -/
  | calibrateSynthDone (again : Bool)
  /-- R103: `CAL_POST` is applied; read the status. -/
  | calibratePostDone (again : Bool)
  /-- R103: the status is read; extract the code. -/
  | calibrateStatusRead (again : Bool)
  /-- R84: at the head of the loop. -/
  | tunerBatchNext (rest : List MaskedWrite)
  /-- R82: reverse the bytes. -/
  | readRegBufferData
  /-- R83: the device write is complete. -/
  | tunerWriteRegMaskDone
  /-- R88: at the head of the loop. -/
  | tunerCloseNext (rest : List RegValue)
  /-- R109. -/
  | setAutoGainDone
  /-- R110: AGC is off; compute the step and write the LNA field. -/
  | setManualGainPreDone (gainDb : Rat)
  /-- R110: write the mixer field. -/
  | setManualGainLnaDone (mix : Int)
  | setManualGainMixDone
  /-- R113: the USB configuration is written; claim the interface. -/
  | openUsbDone
  | openClaimDone
  | openDemodDone
  | openRepeaterDone
  | openProbed
  | openIfDone
  | openInitDone
  | openGainDone
  | openCloseI2CDone
  /-- R118: the ratio is written. -/
  | setSampleRateRatioDone (achieved : Rat)
  | setSampleRatePpmDone (achieved : Rat)
  | setSampleRateResetDone (achieved : Rat)
  /-- R121: the repeater is open; tune. -/
  | setCenterFrequencyOpened (target : Int)
  | setCenterFrequencyTuned
  | setCenterFrequencyClosed (actual : Rat)
  /-- R116: the repeater is open; set the gain. -/
  | setGainOpened (gain : Option Rat)
  | setGainApplied
  | setGainClosed
  /-- R117. -/
  | setGainInnerDone
  /-- R122. -/
  | resetBufferDone
  /-- R123. The handler of R133 looks for this frame. -/
  | readSamplesData
  /-- R125: the repeater is open; power the tuner down. -/
  | closeOpened
  | closeTunerDone
  | closeRepeaterDone
  | closeReleased
deriving DecidableEq, Repr, Inhabited

/-- The state of the block and of the two ports it stands between. The configuration never changes. -/
structure State where
  /-- the configuration the block is constructed with (R7) -/
  cfg : Config
  /-- S0 -/
  session : Session
  /-- S1 -/
  claimed : Bool
  /-- S2 -/
  i2cOpen : Bool
  /-- S3 -/
  tunerPresent : Bool
  /-- S4, the 27 cells of tuner registers 0x05..0x1F, each `undef` (`none`) or a byte (R20) -/
  shadow : Vector (Option Byte) 27
  /-- S5 -/
  hasLock : Bool
  /-- S6 -/
  pllState : PllState
  /-- S7, `undef` (`none`) or a rational -/
  xtalFreq : Option Rat
  /-- S8 -/
  ppm : Int
  /-- S9 -/
  gainCfg : Option Rat
  /-- S10 -/
  streamReady : Bool
  /-- S11, `none` or the primitive in flight -/
  inflight : Option Primitive
  /-- the frame stack, innermost first (R26) -/
  frames : List Frame
  /-- the transport's answer or the sub-operation's result that the innermost frame resumes with (R26); the
  model's own field -/
  latch : Value
  /-- the commands submitted on the command port and not yet taken, oldest first (R45); the model's own field -/
  commands : List Record
  /-- the answers the transport will give, in order (R37); where it is empty `Config.transport` answers; the
  model's own field -/
  answers : List Answer
  /-- the answers given on the command port, oldest first (R60); the model's own field -/
  responses : List Response
  /-- the primitives issued, oldest first (R143); the model's own field -/
  trace : List Primitive
deriving DecidableEq, Repr, Inhabited

/-- Construction of the block (R145) with a configuration and the two configuration inputs of `open` (R147). -/
def State.construct (cfg : Config) (ppm : Int) (gainCfg : Option Rat) : State where
  cfg := cfg
  session := .idle
  claimed := false
  i2cOpen := false
  tunerPresent := false
  shadow := Vector.replicate 27 none
  hasLock := false
  pllState := .unlocked
  xtalFreq := none
  ppm := ppm
  gainCfg := gainCfg
  streamReady := false
  inflight := none
  frames := []
  latch := .unit
  commands := []
  answers := []
  responses := []
  trace := []

/-- The block right after reset, which is construction (R145). The configuration and its inputs are those of the
specification's test configuration: ppm 0 and no configured gain (DESIGN CHOICE, log entries 1 and 2). -/
def State.reset : State := State.construct Config.fixture 0 none

end Sys2Proof.Machine
end

