-- ==== Sys2Proof/Machine/Arith.lean ====
section
/-! DEFINITION. The exact arithmetic of the rules (R9 to R13) and the formulas of the configuration. -/

namespace Sys2Proof.Machine

/-- `a mod b = a - b*floor(a/b)` on rationals (R10). -/
def qmod (a b : Rat) : Rat := a - b * (a / b).floor

/-- `flog2(q)` for q > 0: the integer k with `2^k <= q < 2^(k+1)` (R11). -/
def flog2 (q : Rat) : Int :=
  if 1 ≤ q then Int.ofNat (Nat.log2 q.floor.toNat)
  else -(Int.ofNat (Nat.log2 ((-(-(1 / q)).floor) - 1).toNat) + 1)

/-- `round(q) = floor(q + 1/2)` (R12). -/
def round (q : Rat) : Int := (q + 1 / 2).floor

/-- `clamp(lo, hi, x) = min(hi, max(lo, x))` (R10). -/
def clamp (lo hi x : Int) : Int := min hi (max lo x)

/-- `byteOf(v) = v mod 256` (R13). -/
def byteOf (v : Int) : Byte := BitVec.ofInt 8 v

/-- `(s & ~m) | (v & m)` on bytes (R13). -/
def maskMerge (s v m : Byte) : Byte := (s &&& ~~~m) ||| (v &&& m)

/-- The value of a formula of the configuration at an argument. -/
def evalFormula (x : Int) : Formula → Int
  | .arg => x
  | .const z => z
  | .add a b => evalFormula x a + evalFormula x b
  | .sub a b => evalFormula x a - evalFormula x b
  | .mul a b => evalFormula x a * evalFormula x b
  | .fdiv a b => Int.fdiv (evalFormula x a) (evalFormula x b)
  | .fmod a b => Int.fmod (evalFormula x a) (evalFormula x b)
  | .tdiv a b => Int.tdiv (evalFormula x a) (evalFormula x b)
  | .ifLe a b t e => if evalFormula x a ≤ evalFormula x b then evalFormula x t else evalFormula x e

/-- The WriteCommand a template stands for at an argument. -/
def evalTemplate (x : Int) : WriteTemplate → WriteCommand
  | .reg b r v w => .reg (evalFormula x b) (evalFormula x r) (evalFormula x v) (evalFormula x w)
  | .regMask b r v m => .regMask (evalFormula x b) (evalFormula x r) (evalFormula x v) (evalFormula x m)
  | .demodReg p a v w => .demodReg (evalFormula x p) (evalFormula x a) (evalFormula x v) (evalFormula x w)
  | .i2cReg d r v => .i2cReg d (evalFormula x r) (evalFormula x v)
  | .unknown tag fields => .unknown tag fields

/-- A parameter list such as `IF_WRITES(m)` at its argument. -/
def evalBatch (f : BatchFormula) (x : Int) : List WriteCommand :=
  match f with
  | .nil => []
  | .cons t rest => evalTemplate x t :: evalBatch rest x
  | .ifLe a b t e => if evalFormula x a ≤ evalFormula x b then evalBatch t x else evalBatch e x

end Sys2Proof.Machine
end

