-- ==== Sys2Proof/Machine/Operands.lean ====
section
/-! DEFINITION. Operand forms: block codes, byte order, device addresses, the bit reversal of status bytes, the
shadow addresses, and the wire form of a primitive. -/

namespace Sys2Proof.Machine

/-- How an operand is turned away: with an error of the source or with a model fault (R15). -/
inductive Stop where
  | error (e : Error)
  | fault (f : Fault)
deriving DecidableEq, Repr

/-- The block a code names (R53). -/
def blockOf (b : Int) : Option Block :=
  if b = 0 then some .demod
  else if b = 1 then some .usb
  else if b = 2 then some .sys
  else if b = 3 then some .i2c
  else none

/-- `BLOCK_ID(b)` (R7). -/
def blockId (c : Config) : Block → Half
  | .demod => c.blockIdDemod
  | .usb => c.blockIdUsb
  | .sys => c.blockIdSys
  | .i2c => c.blockIdI2C

/-- `BLOCK_ID(b) | WRITE_FLAG`, the index of a write (R29, R55). -/
def writeIndex (c : Config) (b : Block) : Half := blockId c b ||| WRITE_FLAG

/-- A number placed in a 16-bit wire field (R55); the callers have checked its range. -/
def half (v : Int) : Half := BitVec.ofInt 16 v

/-- `(addr << 8) | 0x20`, the `wValue` of a demodulator register (R31). -/
def demodValue (a : Int) : Half := (half a <<< 8) ||| DEMOD_SUFFIX

/-- Byte orders (R33). -/
inductive ByteOrder where
  | little
  | big
deriving DecidableEq, Repr

/-- The `w` bytes of `v`, least significant first. -/
def littleBytes (v : Int) (w : Nat) : List Byte := (List.range w).map fun i => byteOf (v / 2 ^ (8 * i))

/-- `encode(v, w, order)` (R34). -/
def encodeValue (v w : Int) (order : ByteOrder) : Except Stop (List Byte) :=
  if isWidth w then
    if 0 ≤ v ∧ v < 2 ^ (8 * w.toNat) then
      match order with
      | .little => .ok (littleBytes v w.toNat)
      | .big => .ok (littleBytes v w.toNat).reverse
    else .error (.fault .valueOutOfRange)
  else .error (.error .unsupportedRegisterWidth)

/-- The unsigned integer of bytes given least significant first. -/
def littleValue : List Byte → Int
  | [] => 0
  | b :: bs => b.toNat + 256 * littleValue bs

/-- `decode(bytes, order)` (R34). -/
def decodeValue (bs : List Byte) (order : ByteOrder) : Except Stop Int :=
  if isWidth bs.length then
    match order with
    | .little => .ok (littleValue bs)
    | .big => .ok (littleValue bs.reverse)
  else .error (.error .unsupportedRegisterWidth)

/-- `rev4`, the reversal of 4 bits (R81). -/
def rev4 (x : BitVec 4) : BitVec 4 :=
  x.extractLsb' 0 1 ++ x.extractLsb' 1 1 ++ x.extractLsb' 2 1 ++ x.extractLsb' 3 1

/-- The reversal of a status byte (R81). -/
def bitrev (mode : BitrevMode) (b : Byte) : Byte :=
  match mode with
  | .inPlace => rev4 (b.extractLsb' 4 4) ++ rev4 (b.extractLsb' 0 4)
  | .fullByte => rev4 (b.extractLsb' 0 4) ++ rev4 (b.extractLsb' 4 4)

/-- The storage index `a - 0x05` of shadow cell a (R20). -/
def shadowIndex (a : Int) : Option (Fin 27) :=
  if h : SHADOW_LO ≤ a ∧ a ≤ SHADOW_HI then
    some ⟨(a - SHADOW_LO).toNat, by unfold SHADOW_LO SHADOW_HI at *; omega⟩
  else none

/-- `muxIndex`: the largest i with `t_i <= mhz` (R89). -/
def muxIndex (table : List MuxEntry) (mhz : Rat) : Option Nat :=
  ((List.range table.length).filter fun i =>
    match table[i]? with
    | some e => decide (e.threshold ≤ mhz)
    | none => false).getLast?

/-- The four masked writes of `setMux` (R90): field j receives value j, already positioned. -/
def muxWrites (fields : List RegField) (e : MuxEntry) : List MaskedWrite :=
  List.zipWith (fun f v => ⟨f.reg, v, f.mask⟩) fields [e.v0, e.v1, e.v2, e.v3]

/-- The masked write of a tuner write list item at a calibration code (R84). -/
def resolveItem (code : Int) : TunerItem → MaskedWrite
  | .write w => w
  | .fold a base m => ⟨a, (byteOf base ||| byteOf code).toNat, m⟩

/-- The two bytes of a 16-bit field of a setup packet, little-endian (R54). -/
def halfBytes (v : Half) : List Byte := [v.extractLsb' 0 8, v.extractLsb' 8 8]

/-- The 8-byte setup stage of a control transfer (R54); the other primitives have none. -/
def setupBytes : Primitive → Option (List Byte)
  | .ctrlOut v i d =>
    some (REQTYPE_OUT :: USB_REQUEST :: (halfBytes v ++ halfBytes i ++ halfBytes (BitVec.ofNat 16 d.length)))
  | .ctrlIn v i n =>
    some (REQTYPE_IN :: USB_REQUEST :: (halfBytes v ++ halfBytes i ++ halfBytes (BitVec.ofNat 16 n)))
  | .bulkIn _ _ => none
  | .claim _ => none
  | .release _ => none

/-- The data stage the block sends with a primitive (R54). -/
def dataStage : Primitive → List Byte
  | .ctrlOut _ _ d => d
  | .ctrlIn _ _ _ | .bulkIn _ _ | .claim _ | .release _ => []

end Sys2Proof.Machine
end

