-- ==== Sys2Proof/Machine/Configuration.lean ====
section
/-! DEFINITION. Well-formedness of the configuration (R8), clause by clause. -/

namespace Sys2Proof.Machine

/-- A register a tuner masked write may name: in `SHADOW_LO..SHADOW_HI` (R8 e). -/
def okReg (r : Int) : Bool := inRange SHADOW_LO SHADOW_HI r

/-- A masked write whose register and mask R8 (e) admits. -/
def okWrite (w : MaskedWrite) : Bool := okReg w.addr && isByte w.mask

/-- An item of `INIT_ELEC_POST` whose register and mask R8 (e) admits. -/
def okItem : TunerItem → Bool
  | .write w => okWrite w
  | .fold a _ m => okReg a && isByte m

/-- Whether an item folds the calibration code (R84). -/
def isFold : TunerItem → Bool
  | .write _ => false
  | .fold _ _ _ => true

/-- R8 (a): the image has 27 entries, each a byte. -/
def okInitImage (c : Config) : Bool := c.initImage.length == 27 && c.initImage.all isByte

/-- The values of a multiplexer entry are bytes (R8 b). -/
def okMuxValues (e : MuxEntry) : Bool := isByte e.v0 && isByte e.v1 && isByte e.v2 && isByte e.v3

/-- Thresholds strictly ascend (R8 b). -/
def ascending : List Rat → Bool
  | [] => true
  | [_] => true
  | a :: b :: rest => decide (a < b) && ascending (b :: rest)

/-- R8 (b): the table is non-empty, starts at threshold 0, strictly ascends and holds bytes. -/
def okMuxTable (c : Config) : Bool :=
  (match c.muxTable with
   | [] => false
   | e :: _ => decide (e.threshold = 0))
  && ascending (c.muxTable.map MuxEntry.threshold) && c.muxTable.all okMuxValues

/-- R8 (c). -/
def okMuxFields (c : Config) : Bool := c.muxFields.length == 4

/-- R8 (d). -/
def okStandbyTable (c : Config) : Bool := c.standbyTable.length == 11

/-- R8 (e): every register named in a tuner masked write is shadowed. -/
def okRegisters (c : Config) : Bool :=
  c.initElecPre.all okWrite && c.initElecPost.all okItem && c.setpllPre.all okWrite && c.calPre.all okWrite
  && c.calPost.all okWrite && c.autoGainWrites.all okWrite && c.manualGainPre.all okWrite
  && c.standbyTable.all (fun p => okReg p.reg) && c.muxFields.all (fun f => okReg f.reg)
  && okReg c.divReg && okReg c.nisiReg && okReg c.fracReg && okReg c.sdmHiReg && okReg c.sdmLoReg
  && okReg c.vcoselReg && okReg c.postlockReg && okReg c.lnaReg && okReg c.mixReg

/-- R8 (e): every mask is a byte. -/
def okMasks (c : Config) : Bool :=
  c.muxFields.all (fun f => isByte f.mask) && isByte c.divMask && isByte c.fracMask && isByte c.vcoselMask
  && isByte c.postlockMask && isByte c.lnaMask && isByte c.mixMask

/-- R8 (f): exactly one fold. -/
def okFold (c : Config) : Bool := c.initElecPost.countP isFold == 1

/-- R8 (g). -/
def okFtByte (c : Config) : Bool := decide (c.ftByte < c.ftLen)

/-- R8 (h): every status read stays at or below 0x20. -/
def okStatusReads (c : Config) : Bool :=
  decide (c.ftAddr + c.ftLen ≤ 0x20) && decide (c.lockAddr + LOCK_LEN ≤ 0x20) && decide (c.calAddr + CAL_LEN ≤ 0x20)

/-- R8 (i): `FT_CLASS` is total on 0..255. -/
def okFtClass (c : Config) : Bool := c.ftClass.length == 256

/-- A record that writes the tuner past its shadow bank: an I2CReg to `TUNER_I2C_ADDR` (R85). -/
def rawTuner : WriteCommand → Bool
  | .i2cReg d _ _ => d == TUNER_I2C_ADDR
  | .reg _ _ _ _ | .regMask _ _ _ _ | .demodReg _ _ _ _ | .unknown _ _ => false

/-- A template that stands for such a record, at whatever argument. -/
def rawTunerTemplate : WriteTemplate → Bool
  | .i2cReg d _ _ => d == TUNER_I2C_ADDR
  | .reg _ _ _ _ | .regMask _ _ _ _ | .demodReg _ _ _ _ | .unknown _ _ => false

/-- A batch function with no such template. -/
def okBatchFormula : BatchFormula → Bool
  | .nil => true
  | .cons t rest => !rawTunerTemplate t && okBatchFormula rest
  | .ifLe _ _ t e => okBatchFormula t && okBatchFormula e

/-- A batch with no such record. -/
def okBatch (cs : List WriteCommand) : Bool := cs.all fun c => !rawTuner c

/-- R85: no operation writes a tuner register with `writeI2CReg` outside the masked write and `init`, so no batch of the
configuration may hold such a record; only the test port may send one (R138). -/
def okBatches (c : Config) : Bool :=
  okBatch c.usbConfigBatch && okBatch c.demodInitBatch && okBatch c.softReset && okBatch c.epaReset
  && okBatchFormula c.ifWrites && okBatchFormula c.srRatioWrites && okBatchFormula c.ppmWrites

/-- All the clauses of R8, and what R85 requires of the batches. DEDUCED (log entry 27): R8 does not list the latter. -/
def Config.wellFormed (c : Config) : Bool :=
  okInitImage c && okMuxTable c && okMuxFields c && okStandbyTable c && okRegisters c && okMasks c && okFold c
  && okFtByte c && okStatusReads c && okFtClass c && okBatches c

/-- `-10^6 < ppm < 10^6`, the type of the configuration input S8 (R7, R18). -/
def okPpm (ppm : Int) : Bool := decide (-1000000 < ppm) && decide (ppm < 1000000)

/-- The configuration and the configuration inputs of a block are admissible (R8; the bound on ppm by log entry 3). -/
def configured (s : State) : Bool := Config.wellFormed s.cfg && okPpm s.ppm

end Sys2Proof.Machine
end

