-- ==== Sys2Proof/Machine/Flags.lean ====
section
/-! DEFINITION. The codes of the state items and of the outcomes, and the status outputs (R27, R127, R128, R130). -/

namespace Sys2Proof.Machine

/-- The code of `session` (R18, S0). -/
def sessionCode : Session → Nat
  | .idle => 0
  | .opened => 1
  | .closed => 2
  | .failed => 3

/-- The code of `pllState` (R18, S6). -/
def pllStateCode : PllState → Nat
  | .unlocked => 0
  | .attempt1 => 1
  | .attempt2 => 2
  | .locked => 3

/-- The status word `session | (hasLock << 2) | (pllState << 3)` (R27). -/
def statusWord (s : State) : Nat :=
  sessionCode s.session ||| (s.hasLock.toNat <<< 2) ||| (pllStateCode s.pllState <<< 3)

/-- The codes of the directions (R128). -/
def directionCode : Direction → Nat
  | .dirOut => 0
  | .dirIn => 1
  | .dirClaim => 2
  | .dirRelease => 3

/-- The codes of the error kinds (R127). -/
def errorCode : Error → Nat
  | .usbTransferFailed _ _ _ _ => 0x01
  | .usbBulkReadFailed _ _ => 0x02
  | .unsupportedTunerChip => 0x03
  | .pllNotLocked => 0x04
  | .unsupportedRegisterWidth => 0x05
  | .unsupportedOperation => 0x06
  | .deviceNotFound => 0x07

/-- The codes of the model faults (R130). -/
def faultCode : Fault → Nat
  | .wrongSessionState => 0x81
  | .notPermitted => 0x82
  | .unknownCommand => 0x83
  | .valueOutOfRange => 0x84
  | .invalidPage => 0x85
  | .shadowAddressOutOfRange => 0x86
  | .shadowUninitialised => 0x87
  | .frequencyOutOfRange => 0x88
  | .nintBelowRange => 0x89
  | .i2cNotOpen => 0x8A
  | .interfaceNotClaimed => 0x8B
  | .streamNotReset => 0x8C
  | .invalidLength => 0x8D
  | .invalidSampleRate => 0x8E
  | .invalidConfiguration => 0x8F
  | .tunerNotPresent => 0x90

/-- The arcs of the session machine (R19). -/
def sessionArc : Session → Session → Bool
  | .idle, .opened => true
  | .idle, .failed => true
  | .opened, .closed => true
  | .opened, .failed => true
  | _, _ => false

end Sys2Proof.Machine
end

