-- ==== Sys2Proof/Machine/Ops.lean ====
section
/-! DEFINITION. The operations the rules share: one transport primitive (R6, R14, R37), an error leaving a command
(R132), the answer of a completed command (R60), the shadow bank (R20), and what a run of pure statements ends in
(R26). -/

namespace Sys2Proof.Machine

/-- What a run of statements of the innermost frame ends in (R26). The state is the one the statements leave, with
the frame itself taken off the stack. -/
inductive Act where
  /-- issue a primitive; the operation resumes at `k` with the answer -/
  | prim (p : Primitive) (k : Frame) (s : State)
  /-- `call op(args)`; the operation resumes at `k` with the result (R15) -/
  | call (op : Op) (k : Frame) (s : State)
  /-- `return v` -/
  | ret (v : Value) (s : State)
  /-- `raise E(info)` -/
  | raise (e : Error) (s : State)
  /-- `raise Fault.X` -/
  | fault (f : Fault)

/-- An operand turned away (R15). -/
def Stop.act (s : State) : Stop → Act
  | .error e => .raise e s
  | .fault f => .fault f

/-- What an operation reads from the result handed to it: an integer. -/
def Value.asInt : Value → Int
  | .int z => z
  | .byte b => b.toNat
  | .unit | .bool _ | .bytes _ | .rat _ => 0

/-- What an operation reads from the result handed to it: a boolean. -/
def Value.asBool : Value → Bool
  | .bool b => b
  | .unit | .int _ | .byte _ | .bytes _ | .rat _ => false

/-- What an operation reads from the result handed to it: a byte list. -/
def Value.asBytes : Value → List Byte
  | .bytes bs => bs
  | .unit | .int _ | .byte _ | .bool _ | .rat _ => []

/-- What an operation reads from the result handed to it: a rational. -/
def Value.asRat : Value → Rat
  | .rat q => q
  | .unit | .int _ | .byte _ | .bool _ | .bytes _ => 0

/-- What an operation reads from the result handed to it: a byte. -/
def Value.asByte : Value → Byte
  | .byte b => b
  | .unit | .int _ | .bool _ | .bytes _ | .rat _ => 0

/-! ### Errors leaving a command -/

/-- Whether `readSamples` is among the operations in progress, waiting for its bulk read (R133). -/
def inReadSamples (fs : List Frame) : Bool := fs.any fun f => f == .readSamplesData

/-- Whether an error is the one that `readSamples` handles: `UsbBulkReadFailed` (R133). -/
def isBulkFailure : Error → Bool
  | .usbBulkReadFailed _ _ => true
  | .usbTransferFailed _ _ _ _ | .unsupportedTunerChip | .pllNotLocked | .unsupportedRegisterWidth
  | .unsupportedOperation | .deviceNotFound => false

/-- An error leaves the command in progress (R132), in one step: the handler of R133 runs if it passes through
`readSamples`; every frame is popped and `inflight` becomes `none`; a session-fatal error (R134), which is every
other one, makes the session FAILED; the port answers `err`. `streamReady` is false after either: the handler clears
it (R133), and it holds only until a bulk read fails or the session ends (R23 c). Every earlier write to the state
items R132 names stays in place. -/
def errorEntry (e : Error) (s : State) : State :=
  let handled := isBulkFailure e && inReadSamples s.frames
  { s with
    streamReady := false
    session := if handled then s.session else .failed
    frames := []
    inflight := none
    latch := .unit
    responses := s.responses ++ [.err e] }

/-- The outermost operation returns `v`: the port answers `ok(v)` (R60), and no command is in progress (R26). -/
def respond (v : Value) (s : State) : State :=
  { s with
    frames := []
    latch := .unit
    responses := s.responses ++ [.ok v] }

/-! ### Transport primitives -/

/-- The error a failed primitive raises (R63). -/
def transferError (p : Primitive) (c : Cause) : Error :=
  match p with
  | .ctrlOut v i _ => .usbTransferFailed .dirOut v i c
  | .ctrlIn v i _ => .usbTransferFailed .dirIn v i c
  | .claim i => .usbTransferFailed .dirClaim 0 (BitVec.ofNat 16 i) c
  | .release i => .usbTransferFailed .dirRelease 0 (BitVec.ofNat 16 i) c
  | .bulkIn _ n => .usbBulkReadFailed n c

/-- The result of a primitive for its operation (R14), or the error it raises: the transport's failure, or an answer
of the wrong length (R37, R63). -/
def primitiveResult (p : Primitive) (a : Answer) : Except Error Value :=
  match a with
  | .fail c => .error (transferError p (.transport c))
  | .ok d =>
    match p with
    | .ctrlOut _ _ _ => .ok .unit
    | .claim _ => .ok .unit
    | .release _ => .ok .unit
    | .ctrlIn _ _ n => if d.length = n then .ok (.bytes d) else .error (transferError p .shortTransfer)
    | .bulkIn _ n => if d.length = n then .ok (.bytes d) else .error (transferError p .shortTransfer)

/-- The block takes the transport's answer to the primitive in flight (R6 c): the operation resumes with its result,
or its error leaves the command at once (R63). -/
def settle (p : Primitive) (a : Answer) (s : State) : State :=
  match primitiveResult p a with
  | .ok v => { s with inflight := none, latch := v }
  | .error e => errorEntry e { s with inflight := none }

/-- The next answer of the transport: the first of the answers supplied, or the oracle's own (R37). -/
def nextAnswer (p : Primitive) (s : State) : Answer :=
  match s.answers with
  | a :: _ => a
  | [] => Config.transport s.trace.length p

/-- The answer of the transport arrives (R6 c). -/
def takeAnswer (p : Primitive) (s : State) : State :=
  settle p (nextAnswer p s) { s with answers := s.answers.tail }

/-- The block issues a primitive (R6 b): it is in flight and on the record. -/
def issue (p : Primitive) (s : State) : State :=
  { s with inflight := some p, trace := s.trace ++ [p] }

/-- One transport primitive: issued and answered (R6). -/
def transact (p : Primitive) (s : State) : State := takeAnswer p (issue p s)

/-! ### The shadow bank -/

/-- The shadow bank with cell `i` set to a byte. -/
def setShadow (s : State) (i : Fin 27) (b : Byte) : State := { s with shadow := s.shadow.set i (some b) }

/-- Whether a session accepts internal commands (R138): IDLE or OPEN. -/
def sessionLive : Session → Bool
  | .idle => true
  | .opened => true
  | .closed => false
  | .failed => false

/-- The crystal frequency `setPll` reads (R24). No operation reads it before `open` has set it (R92). -/
def crystal (s : State) : Rat := s.xtalFreq.getD Config.undefinedCrystal

end Sys2Proof.Machine
end

