-- ==== Sys2Proof/Machine/Controller.lean ====
section
/-! DEFINITION. The statements of the seven external commands (R112 to R126). -/

namespace Sys2Proof.Machine

/-- The session precondition of an external command (R112). -/
def requireSession (want : Session) (s : State) (a : Act) : Act :=
  if s.session = want then a else .fault .wrongSessionState

/-! ### Bring-up -/

/-- `xtalFreq = XTAL * (1 + ppm / 10^6)` (R114). -/
def correctedCrystal (ppm : Int) : Rat := (XTAL : Rat) * (1 + (ppm : Rat) / 1000000)

/-- `m = -floor(IF_FREQ * 2^22 / xtalFreq)` (R115). -/
def ifMultiplier (x : Rat) : Int := -((IF_FREQ : Rat) * 4194304 / x).floor

/-- R113 from its first statement. -/
def enterOpen (s : State) : Act :=
  requireSession .idle s <| .call (.writeEach s.cfg.usbConfigBatch) .openUsbDone s

/-- R113: claim the interface. -/
def afterOpenUsb (s : State) : Act := .call .claimInterface .openClaimDone s

/-- R113: initialize the demodulator. -/
def afterOpenClaim (s : State) : Act := .call (.writeEach s.cfg.demodInitBatch) .openDemodDone s

/-- R113: the crystal frequency, then the repeater. -/
def afterOpenDemod (s : State) : Act :=
  .call .openI2C .openRepeaterDone { s with xtalFreq := some (correctedCrystal s.ppm) }

/-- R113: probe the tuner. -/
def afterOpenRepeater (s : State) : Act := .call .tunerCheck .openProbed s

/-- R113: a mismatch is an error; a match constructs the tuner driver and writes the IF multiplier. -/
def afterOpenProbed (v : Value) (s : State) : Act :=
  if v.asBool then
    .call (.writeEach (evalBatch s.cfg.ifWrites (ifMultiplier (crystal s)))) .openIfDone { s with tunerPresent := true }
  else .raise .unsupportedTunerChip s

/-- R113: initialize the tuner. -/
def afterOpenIf (s : State) : Act := .call .tunerInit .openInitDone s

/-- R113: apply the configured gain. -/
def afterOpenInit (s : State) : Act := .call (.setGainInner s.gainCfg) .openGainDone s

/-- R113: close the repeater. -/
def afterOpenGain (s : State) : Act := .call .closeI2C .openCloseI2CDone s

/-- R113: the session is open. -/
def afterOpenCloseI2C (s : State) : Act := .ret .unit { s with streamReady := false, session := .opened }

/-! ### Configuration -/

/-- R116 from its first statement. -/
def enterSetGain (g : Option Rat) (s : State) : Act := requireSession .opened s <| .call .openI2C (.setGainOpened g) s

/-- R116: the repeater is open. -/
def afterSetGainOpened (g : Option Rat) (s : State) : Act := .call (.setGainInner g) .setGainApplied s

/-- R116: close the repeater. -/
def afterSetGainApplied (s : State) : Act := .call .closeI2C .setGainClosed s

/-- R117: `none` selects automatic gain, a gain of 0 dB does not. -/
def enterSetGainInner (g : Option Rat) (s : State) : Act :=
  match g with
  | none => .call .tunerSetAutoGain .setGainInnerDone s
  | some q => .call (.tunerSetManualGain q) .setGainInnerDone s

/-- `ratio = floor(XTAL * 2^22 / rate) & 0x0FFFFFFC` for rate > 0 (R119). -/
def sampleRatio (rate : Int) : Nat := (XTAL * 4194304 / rate).toNat &&& 0x0FFFFFFC

/-- `achieved = XTAL * 2^22 / ratio` (R119). -/
def achievedRate (ratio : Nat) : Rat := (XTAL : Rat) * 4194304 / ratio

/-- R118 from its first statement. -/
def enterSetSampleRate (rate : Int) (s : State) : Act :=
  requireSession .opened s <|
    if rate ≤ 0 then .fault .invalidSampleRate
    else if sampleRatio rate = 0 then .fault .invalidSampleRate
    else
      .call (.writeEach (evalBatch s.cfg.srRatioWrites (sampleRatio rate)))
        (.setSampleRateRatioDone (achievedRate (sampleRatio rate))) s

/-- R118: the ppm correction (R120). -/
def afterSetSampleRateRatio (achieved : Rat) (s : State) : Act :=
  .call (.writeEach (evalBatch s.cfg.ppmWrites (evalFormula s.ppm s.cfg.ppmOffset))) (.setSampleRatePpmDone achieved) s

/-- R118: the soft reset. -/
def afterSetSampleRatePpm (achieved : Rat) (s : State) : Act :=
  .call (.writeEach s.cfg.softReset) (.setSampleRateResetDone achieved) s

/-- R118: `return achieved`. -/
def afterSetSampleRateReset (achieved : Rat) (s : State) : Act := .ret (.rat achieved) s

/-- R121 from its first statement. -/
def enterSetCenterFrequency (f : Int) (s : State) : Act :=
  requireSession .opened s <|
    if f + IF_FREQ ≤ 0 ∨ VCO_MIN < f + IF_FREQ then .fault .frequencyOutOfRange
    else .call .openI2C (.setCenterFrequencyOpened (f + IF_FREQ)) s

/-- R121: tune to the target. -/
def afterSetCenterFrequencyOpened (target : Int) (s : State) : Act :=
  .call (.tunerSetFrequency target) .setCenterFrequencyTuned s

/-- R121: close the repeater. -/
def afterSetCenterFrequencyTuned (v : Value) (s : State) : Act :=
  .call .closeI2C (.setCenterFrequencyClosed v.asRat) s

/-- R121: `return actual - IF_FREQ`. -/
def afterSetCenterFrequencyClosed (actual : Rat) (s : State) : Act := .ret (.rat (actual - (IF_FREQ : Rat))) s

/-! ### Streaming -/

/-- R122 from its first statement. -/
def enterResetBuffer (s : State) : Act :=
  requireSession .opened s <| .call (.writeEach s.cfg.epaReset) .resetBufferDone s

/-- R122: both writes are complete. -/
def afterResetBuffer (s : State) : Act := .ret .unit { s with streamReady := true }

/-- R123 from its first statement. Its error handler is part of `errorEntry`. -/
def enterReadSamples (count : Int) (s : State) : Act :=
  requireSession .opened s <|
    if count < 1 then .fault .invalidLength
    else if s.streamReady then .call (.readBulk (2 * count)) .readSamplesData s
    else .fault .streamNotReset

/-! ### Shutdown -/

/-- R125 from its first statement. -/
def enterClose (s : State) : Act := requireSession .opened s <| .call .openI2C .closeOpened s

/-- R125: power the tuner down. -/
def afterCloseOpened (s : State) : Act := .call .tunerClose .closeTunerDone s

/-- R125: close the repeater. -/
def afterCloseTuner (s : State) : Act := .call .closeI2C .closeRepeaterDone s

/-- R125: release the interface. -/
def afterCloseRepeater (s : State) : Act := .call .releaseInterface .closeReleased s

/-- R125: the session is closed. -/
def afterCloseReleased (s : State) : Act := .ret .unit { s with streamReady := false, session := .closed }

end Sys2Proof.Machine
end

