-- ==== Sys2Proof/Machine/RegisterBus.lean ====
section
/-! DEFINITION. The statements of the RegisterBus operations (R64 to R78). For each operation `enterX` runs from its
first statement and the `afterX` definitions from the statement a frame resumes at. -/

namespace Sys2Proof.Machine

/-! ### Block registers -/

/-- R64 from its first statement. -/
def enterWriteReg (b r v w : Int) (s : State) : Act :=
  match blockOf b with
  | none => .fault .valueOutOfRange
  | some blk =>
    if inRange 0 0xFFFF r then
      match encodeValue v w .little with
      | .error e => e.act s
      | .ok d => .prim (.ctrlOut (half r) (writeIndex s.cfg blk) d) .writeRegDone s
    else .fault .valueOutOfRange

/-- R65 from its first statement. -/
def enterReadReg (b r w : Int) (s : State) : Act :=
  match blockOf b with
  | none => .fault .valueOutOfRange
  | some blk =>
    if inRange 0 0xFFFF r then
      if isWidth w then .prim (.ctrlIn (half r) (blockId s.cfg blk) w.toNat) .readRegData s
      else .raise .unsupportedRegisterWidth s
    else .fault .valueOutOfRange

/-- `return decode(d, LE)` (R65, R68). -/
def returnDecoded (v : Value) (s : State) : Act :=
  match decodeValue v.asBytes .little with
  | .error e => e.act s
  | .ok z => .ret (.int z) s

/-- R66 from its first statement. -/
def enterWriteRegMask (b r v m : Int) (s : State) : Act :=
  if isByte v && isByte m then
    if m = 0xFF then .call (.writeReg b r v 1) .writeRegMaskDone s
    else .call (.readReg b r 1) (.writeRegMaskRead b r v m) s
  else .fault .valueOutOfRange

/-- R66 with `old` read. -/
def afterWriteRegMaskRead (b r v m : Int) (old : Value) (s : State) : Act :=
  .call (.writeReg b r (maskMerge (byteOf old.asInt) (byteOf v) (byteOf m)).toNat 1) .writeRegMaskDone s

/-! ### Demodulator registers -/

/-- R67 from its first statement. -/
def enterWriteDemodReg (p a v w : Int) (s : State) : Act :=
  if inRange 0 15 p then
    if isByte a then
      match encodeValue v w .big with
      | .error e => e.act s
      | .ok d => .prim (.ctrlOut (demodValue a) (half p ||| WRITE_FLAG) d) .writeDemodRegPoll s
    else .fault .valueOutOfRange
  else .fault .invalidPage

/-- R67: the poll read that follows every demodulator write (R42, R150). -/
def afterWriteDemodRegSent (s : State) : Act := .call (.readDemodReg POLL_PAGE POLL_ADDR) .writeDemodRegDone s

/-- R68 from its first statement. -/
def enterReadDemodReg (p a : Int) (s : State) : Act :=
  if inRange 0 15 p then
    if isByte a then .prim (.ctrlIn (demodValue a) (half p) 1) .readDemodRegData s
    else .fault .valueOutOfRange
  else .fault .invalidPage

/-! ### The repeater -/

/-- R69 from its first statement. -/
def enterOpenI2C (s : State) : Act :=
  .call (.writeDemodReg REPEATER_PAGE REPEATER_ADDR REPEATER_OPEN 1) .openI2CDone s

/-- R69: the write and its poll are complete. -/
def afterOpenI2C (s : State) : Act := .ret .unit { s with i2cOpen := true }

/-- R70 from its first statement. -/
def enterCloseI2C (s : State) : Act :=
  .call (.writeDemodReg REPEATER_PAGE REPEATER_ADDR REPEATER_CLOSE 1) .closeI2CDone s

/-- R70: the write and its poll are complete (log entry 12). -/
def afterCloseI2C (s : State) : Act := .ret .unit { s with i2cOpen := false }

/-! ### The I2C proxy -/

/-- The transfer that selects register `reg` of device `dev`, and every write to a device (R32, R55). -/
def i2cWrite (c : Config) (dev : Int) (d : List Byte) : Primitive := .ctrlOut (half dev) (writeIndex c .i2c) d

/-- The transfer that reads `n` bytes from the selected register of device `dev` (R32). -/
def i2cRead (c : Config) (dev : Int) (n : Nat) : Primitive := .ctrlIn (half dev) (blockId c .i2c) n

/-- R71 from its first statement. In R71 to R74 the operand ranges, which no pseudocode writes, come before it (R135). -/
def enterReadI2CReg (dev reg : Int) (s : State) : Act :=
  if isByte dev && isByte reg then
    if s.i2cOpen then .prim (i2cWrite s.cfg dev [byteOf reg]) (.readI2CRegSelected dev) s
    else .fault .i2cNotOpen
  else .fault .valueOutOfRange

/-- R71 phase 2. -/
def afterReadI2CRegSelected (dev : Int) (s : State) : Act := .prim (i2cRead s.cfg dev 1) .readI2CRegData s

/-- R71: `return d[0]`. -/
def afterReadI2CRegData (v : Value) (s : State) : Act := .ret (.byte (v.asBytes.headD 0)) s

/-- R72 from its first statement. -/
def enterWriteI2CReg (dev reg v : Int) (s : State) : Act :=
  if isByte dev && isByte reg && isByte v then
    if s.i2cOpen then
      match s.cfg.i2cWriteForm with
      | .twoPhase => .prim (i2cWrite s.cfg dev [byteOf reg]) (.writeI2CRegSelected dev v) s
      | .combined => .prim (i2cWrite s.cfg dev [byteOf reg, byteOf v]) .writeI2CRegDone s
    else .fault .i2cNotOpen
  else .fault .valueOutOfRange

/-- R72 phase 2. -/
def afterWriteI2CRegSelected (dev v : Int) (s : State) : Act :=
  .prim (i2cWrite s.cfg dev [byteOf v]) .writeI2CRegDone s

/-- R73 from its first statement. -/
def enterReadI2CRegBuffer (dev reg n : Int) (s : State) : Act :=
  if isByte dev && isByte reg then
    if s.i2cOpen then
      if 1 ≤ n then .prim (i2cWrite s.cfg dev [byteOf reg]) (.readI2CRegBufferSelected dev n) s
      else .fault .invalidLength
    else .fault .i2cNotOpen
  else .fault .valueOutOfRange

/-- R73: the index is selected. -/
def afterReadI2CRegBufferSelected (dev n : Int) (s : State) : Act :=
  .prim (i2cRead s.cfg dev n.toNat) .readI2CRegBufferData s

/-- R74 from its first statement. -/
def enterWriteI2CRegBuffer (dev reg : Int) (bs : List Byte) (s : State) : Act :=
  if isByte dev && isByte reg then
    if s.i2cOpen then
      if 1 ≤ bs.length then
        match s.cfg.i2cWriteForm with
        | .twoPhase => .prim (i2cWrite s.cfg dev [byteOf reg]) (.writeI2CRegBufferSelected dev bs) s
        | .combined => .prim (i2cWrite s.cfg dev (byteOf reg :: bs)) .writeI2CRegBufferDone s
      else .fault .invalidLength
    else .fault .i2cNotOpen
  else .fault .valueOutOfRange

/-- R74 phase 2. -/
def afterWriteI2CRegBufferSelected (dev : Int) (bs : List Byte) (s : State) : Act :=
  .prim (i2cWrite s.cfg dev bs) .writeI2CRegBufferDone s

/-! ### Batches -/

/-- The operation a WriteCommand is dispatched to (R51, R75); an unknown record has none (R52). -/
def dispatchOp : WriteCommand → Option Op
  | .reg b r v w => some (.writeReg b r v w)
  | .regMask b r v m => some (.writeRegMask b r v m)
  | .demodReg p a v w => some (.writeDemodReg p a v w)
  | .i2cReg d r v => some (.writeI2CReg d r v)
  | .unknown _ _ => none

/-- R75 at a record that has no form in R51: an illegal tag raises `UnsupportedOperation` (R52); a legal one with another
number of fields is out of its range when it is reached, and not before (R51, R58, log entry 7). -/
def stopUnknown (c : WriteCommand) (s : State) : Act :=
  match c with
  | .unknown tag _ => if (fieldCount tag).isSome then .fault .valueOutOfRange else .raise .unsupportedOperation s
  | .reg _ _ _ _ | .regMask _ _ _ _ | .demodReg _ _ _ _ | .i2cReg _ _ _ => .raise .unsupportedOperation s

/-- R75 at the head of the loop. -/
def loopWriteEach (cs : List WriteCommand) (s : State) : Act :=
  match cs with
  | [] => .ret .unit s
  | c :: rest =>
    match dispatchOp c with
    | some op => .call op (.writeEachNext rest) s
    | none => stopUnknown c s

/-! ### The interface and the bulk endpoint -/

/-- R76 from its first statement. -/
def enterClaimInterface (s : State) : Act := .prim (.claim USB_INTERFACE) .claimInterfaceDone s

/-- R76: `Claim` is answered. -/
def afterClaimInterface (s : State) : Act := .ret .unit { s with claimed := true }

/-- R77 from its first statement. -/
def enterReleaseInterface (s : State) : Act := .prim (.release USB_INTERFACE) .releaseInterfaceDone s

/-- R77: `Release` is answered. -/
def afterReleaseInterface (s : State) : Act := .ret .unit { s with claimed := false }

/-- R78 from its first statement. -/
def enterReadBulk (n : Int) (s : State) : Act :=
  if 1 ≤ n then
    if s.claimed then .prim (.bulkIn BULK_EP n.toNat) .readBulkData s
    else .fault .interfaceNotClaimed
  else .fault .invalidLength

/-- `return d`, the bytes as they came (R73, R78, R123). -/
def returnBytes (v : Value) (s : State) : Act := .ret (.bytes v.asBytes) s

end Sys2Proof.Machine
end

