-- ==== Sys2Proof/Machine/TunerRegisters.lean ====
section
/-! DEFINITION. The statements of the tuner's register operations and of its shadow bank (R79 to R88). -/

namespace Sys2Proof.Machine

/-- The precondition of every tuner operation but `check` (R79). -/
def requireTuner (s : State) (a : Act) : Act := if s.tunerPresent then a else .fault .tunerNotPresent

/-- R80 from its first statement. -/
def enterTunerCheck (s : State) : Act := .call (.readI2CReg TUNER_I2C_ADDR 0x00) .tunerCheckRead s

/-- R80: compare the chip id; the byte is not reversed. -/
def afterTunerCheckRead (v : Value) (s : State) : Act := .ret (.bool (v.asByte == TUNER_CHIP_ID)) s

/-- R82 from its first statement. -/
def enterTunerReadRegBuffer (a n : Int) (s : State) : Act :=
  requireTuner s <|
    if inRange 0x00 0x1F a && decide (1 ≤ n) && decide (a + n ≤ 0x20) then
      .call (.readI2CRegBuffer TUNER_I2C_ADDR a n) .readRegBufferData s
    else .fault .valueOutOfRange

/-- R82: every byte is reversed (R81). -/
def afterReadRegBuffer (v : Value) (s : State) : Act :=
  .ret (.bytes (v.asBytes.map (bitrev s.cfg.bitrevMode))) s

/-- R83 from its first statement: the masked write pipeline. The shadow cell is set first, then the same byte is
sent to the device. -/
def enterTunerWriteRegMask (a v m : Int) (s : State) : Act :=
  requireTuner s <|
    match shadowIndex a with
    | none => .fault .shadowAddressOutOfRange
    | some i =>
      if isByte m then
        match s.shadow[i] with
        | none => .fault .shadowUninitialised
        | some old =>
          if s.i2cOpen then
            let n := maskMerge old (byteOf v) (byteOf m)
            .call (.writeI2CReg TUNER_I2C_ADDR a n.toNat) .tunerWriteRegMaskDone (setShadow s i n)
          else .fault .i2cNotOpen
      else .fault .valueOutOfRange

/-- `call tuner.writeRegMask(a, v, m)`. -/
def callMasked (w : MaskedWrite) (k : Frame) (s : State) : Act :=
  .call (.tunerWriteRegMask w.addr w.value w.mask) k s

/-- R84 at the head of the loop. -/
def loopTunerBatch (ws : List MaskedWrite) (s : State) : Act :=
  match ws with
  | [] => .ret .unit s
  | w :: rest => callMasked w (.tunerBatchNext rest) s

/-- R86 at the head of the image loop: cell `0x05 + i` and its byte, unmasked. -/
def loopTunerInit (i : Nat) (s : State) : Act :=
  if h : i < 27 then
    let v := s.cfg.initImage.getD i 0
    .call (.writeI2CReg TUNER_I2C_ADDR (SHADOW_LO + i) v) (.tunerInitNext (i + 1)) (setShadow s ⟨i, h⟩ (byteOf v))
  else .call .tunerInitElectronics .tunerInitDone s

/-- R86 from its first statement. -/
def enterTunerInit (s : State) : Act :=
  requireTuner s <| if s.i2cOpen then loopTunerInit 0 s else .fault .i2cNotOpen

/-- R87 from its first statement. -/
def enterInitElectronics (s : State) : Act :=
  requireTuner s <| .call (.tunerBatch s.cfg.initElecPre) .initElectronicsPreDone s

/-- R87: calibrate once. -/
def afterInitElectronicsPre (s : State) : Act := .call (.tunerCalibrateFilter true) .initElectronicsCalibrated s

/-- R87: `INIT_ELEC_POST` with the calibration code folded in (R84). -/
def afterInitElectronicsCalibrated (v : Value) (s : State) : Act :=
  .call (.tunerBatch (s.cfg.initElecPost.map (resolveItem v.asInt))) .initElectronicsDone s

/-- R88 at the head of the loop. -/
def loopTunerClose (rows : List RegValue) (s : State) : Act :=
  match rows with
  | [] => .ret .unit s
  | p :: rest => .call (.tunerWriteRegMask p.reg p.value 0xFF) (.tunerCloseNext rest) s

/-- R88 from its first statement. -/
def enterTunerClose (s : State) : Act := requireTuner s <| loopTunerClose s.cfg.standbyTable s

end Sys2Proof.Machine
end

