-- ==== Sys2Proof/Machine/TunerGain.lean ====
section
/-! DEFINITION. Gain control (R106 to R111). -/

namespace Sys2Proof.Machine

/-- The value of a cubic (R106). -/
def Cubic.eval (c : Cubic) (g : Rat) : Rat := c.c0 + c.c1 * g + c.c2 * g ^ 2 + c.c3 * g ^ 3

/-- The polynomial a gain selects (R106). -/
def gainPoly (cfg : Config) (g : Rat) : Cubic := if g ≤ GAIN_SPLIT then cfg.gainPolyLo else cfg.gainPolyHi

/-- `step(g) = clamp(0, STEP_MAX, round(x))` (R107). -/
def gainStep (cfg : Config) (g : Rat) : Int := clamp 0 STEP_MAX (round (Cubic.eval (gainPoly cfg g) g))

/-- `lna = floor(step / 2)` (R108). -/
def lnaStep (step : Int) : Int := step / 2

/-- `mix = floor((step - 1) / 2)` (R108). -/
def mixStep (step : Int) : Int := (step - 1) / 2

/-- R109 from its first statement. -/
def enterSetAutoGain (s : State) : Act :=
  requireTuner s <| .call (.tunerBatch s.cfg.autoGainWrites) .setAutoGainDone s

/-- R110 from its first statement. -/
def enterSetManualGain (g : Rat) (s : State) : Act :=
  requireTuner s <| .call (.tunerBatch s.cfg.manualGainPre) (.setManualGainPreDone g) s

/-- R110: AGC is off; the LNA field comes first. -/
def afterSetManualGainPre (g : Rat) (s : State) : Act :=
  let step := gainStep s.cfg g
  .call (.tunerWriteRegMask s.cfg.lnaReg (byteOf (lnaStep step * 2 ^ s.cfg.lnaShift)).toNat s.cfg.lnaMask)
    (.setManualGainLnaDone (mixStep step)) s

/-- R110: the mixer field. -/
def afterSetManualGainLna (mix : Int) (s : State) : Act :=
  .call (.tunerWriteRegMask s.cfg.mixReg (byteOf (mix * 2 ^ s.cfg.mixShift)).toNat s.cfg.mixMask) .setManualGainMixDone s

end Sys2Proof.Machine
end

