-- ==== Sys2Proof/Machine/TunerSynthesis.lean ====
section
/-! DEFINITION. The multiplexer, the PLL synthesizer, lock detection and filter calibration (R89 to R105). -/

namespace Sys2Proof.Machine

/-! ### The multiplexer -/

/-- R90 at the head of the field loop. -/
def loopSetMux (ws : List MaskedWrite) (s : State) : Act :=
  match ws with
  | [] => .ret .unit s
  | w :: rest => callMasked w (.setMuxNext rest) s

/-- R90 from its first statement. A table with no entry at or below the frequency is ill-formed (R8 b). -/
def enterSetMux (freq : Int) (s : State) : Act :=
  requireTuner s <|
    if freq < 0 then .fault .frequencyOutOfRange
    else
      match (muxIndex s.cfg.muxTable ((freq : Rat) / 1000000)).bind (s.cfg.muxTable[·]?) with
      | none => .fault .invalidConfiguration
      | some e => loopSetMux (muxWrites s.cfg.muxFields e) s

/-- The frequencies the synthesizer accepts: 0 < freq <= VCO_MIN (R91, R92). -/
def tunable (freq : Int) : Bool := decide (0 < freq) && decide (freq ≤ VCO_MIN)

/-- R91 from its first statement. -/
def enterSetFrequency (freq : Int) (s : State) : Act :=
  requireTuner s <|
    if tunable freq then .call (.tunerSetMux freq) (.setFrequencyMuxDone freq) s
    else .fault .frequencyOutOfRange

/-- R91: the multiplexer is set. -/
def afterSetFrequencyMux (freq : Int) (s : State) : Act := .call (.tunerSetPll freq) .setFrequencyPllDone s

/-- R91: return what setPll achieved. -/
def afterSetFrequencyPll (v : Value) (s : State) : Act := .ret (.rat v.asRat) s

/-! ### The formulas of setPll -/

/-- Step 1: `d0 = min(DIV_CLAMP, flog2(VCO_MIN / freq))` (R93). -/
def dividerExponent (freq : Int) : Int := min DIV_CLAMP (flog2 ((VCO_MIN : Rat) / (freq : Rat)))

/-- Step 1: `mixDiv = 2^(d0+1)` (R93); d0 is not negative for an accepted frequency. -/
def mixDivOf (d0 : Int) : Rat := 2 ^ (d0 + 1).toNat

/-- Step 2: the one-step correction (R94). -/
def correctDivider (d0 : Int) : VcoClass → Int
  | .fast => d0 - 1
  | .slow => d0 + 1
  | .nominal => d0

/-- Step 4: `nint = floor(vcoFreq / (2 * xtalFreq))` with `vcoFreq = freq * mixDiv` (R95). -/
def pllNint (freq : Int) (mixDiv x : Rat) : Int := ((freq : Rat) * mixDiv / (2 * x)).floor

/-- Step 4: `vcoFra = vcoFreq mod (2 * xtalFreq)` (R95). -/
def pllFraction (freq : Int) (mixDiv x : Rat) : Rat := qmod ((freq : Rat) * mixDiv) (2 * x)

/-- Step 5: `ni | (si << 6)` with `ni = floor((nint-13)/4)` and `si = (nint-13) mod 4` (R97). -/
def packNint (nint : Int) : Int :=
  let ni := (nint - NINT_BASE) / 4
  let si := (nint - NINT_BASE) % 4
  ((byteOf ni ||| (byteOf si <<< 6)).toNat : Int)

/-- Step 6: `sdm = min(SDM_MAX, floor(32768 * vcoFra / xtalFreq))` (R98). -/
def sigmaDelta (vcoFra x : Rat) : Int := min SDM_MAX (32768 * vcoFra / x).floor

/-- Step 8: `2 * xtalFreq * (nint + sdm/65536) / mixDiv` (R99). -/
def achievedFrequency (x mixDiv : Rat) (nint sdm : Int) : Rat :=
  2 * x * ((nint : Rat) + (sdm : Rat) / 65536) / mixDiv

/-! ### setPll -/

/-- R92 from its first statement. -/
def enterSetPll (freq : Int) (s : State) : Act :=
  requireTuner s <|
    if tunable freq then
      let d0 := dividerExponent freq
      .call (.tunerBatch s.cfg.setpllPre) (.setPllPreDone freq d0 (mixDivOf d0)) s
    else .fault .frequencyOutOfRange

/-- R92 step 2: read the fine-tune indicator. -/
def afterSetPllPre (freq d0 : Int) (mixDiv : Rat) (s : State) : Act :=
  .call (.tunerReadRegBuffer s.cfg.ftAddr s.cfg.ftLen) (.setPllFineTune freq d0 mixDiv) s

/-- R92 steps 2 and 3: classify the indicator and write the corrected divider (R94, R95). -/
def afterSetPllFineTune (freq d0 : Int) (mixDiv : Rat) (v : Value) (s : State) : Act :=
  let cls := s.cfg.ftClass.getD (v.asBytes.getD s.cfg.ftByte 0).toNat .nominal
  let d := correctDivider d0 cls
  .call (.tunerWriteRegMask s.cfg.divReg (byteOf (d * 2 ^ s.cfg.divShift)).toNat s.cfg.divMask)
    (.setPllDividerDone freq mixDiv) s

/-- R92 steps 4 and 5: the parameters; an unreachable frequency returns 0 with the lock flag cleared (R96). -/
def afterSetPllDivider (freq : Int) (mixDiv : Rat) (s : State) : Act :=
  let nint := pllNint freq mixDiv (crystal s)
  if NINT_MAX < nint then .ret (.rat 0) { s with hasLock := false, pllState := .unlocked }
  else if nint < NINT_BASE then .fault .nintBelowRange
  else
    .call (.tunerWriteRegMask s.cfg.nisiReg (packNint nint) 0xFF)
      (.setPllNisiDone mixDiv nint (pllFraction freq mixDiv (crystal s))) s

/-- R92 step 5: the fractional-mode field (R97). -/
def afterSetPllNisi (mixDiv : Rat) (nint : Int) (vcoFra : Rat) (s : State) : Act :=
  .call (.tunerWriteRegMask s.cfg.fracReg (if vcoFra = 0 then s.cfg.fracValInt else s.cfg.fracValFrac) s.cfg.fracMask)
    (.setPllFracDone mixDiv nint vcoFra) s

/-- R92 step 6: the high byte of the sigma-delta word (R98). -/
def afterSetPllFrac (mixDiv : Rat) (nint : Int) (vcoFra : Rat) (s : State) : Act :=
  let sdm := sigmaDelta vcoFra (crystal s)
  .call (.tunerWriteRegMask s.cfg.sdmHiReg (sdm / 256) 0xFF) (.setPllSdmHiDone mixDiv nint sdm) s

/-- R92 step 6: the low byte. -/
def afterSetPllSdmHi (mixDiv : Rat) (nint sdm : Int) (s : State) : Act :=
  .call (.tunerWriteRegMask s.cfg.sdmLoReg (sdm % 256) 0xFF) (.setPllSdmLoDone mixDiv nint sdm) s

/-- R92 step 7: poll the lock. -/
def afterSetPllSdmLo (mixDiv : Rat) (nint sdm : Int) (s : State) : Act :=
  .call (.tunerGetPllLock true) (.setPllLockDone mixDiv nint sdm) s

/-- R92 step 7: the post-lock field, whether or not the PLL locked (R99). -/
def afterSetPllLock (mixDiv : Rat) (nint sdm : Int) (s : State) : Act :=
  .call (.tunerWriteRegMask s.cfg.postlockReg s.cfg.postlockVal s.cfg.postlockMask) (.setPllPostLockDone mixDiv nint sdm) s

/-- R92 step 8. -/
def afterSetPllPostLock (mixDiv : Rat) (nint sdm : Int) (s : State) : Act :=
  .ret (.rat (achievedFrequency (crystal s) mixDiv nint sdm)) s

/-! ### Lock detection -/

/-- The state of the tuning state machine during an attempt (R101, R102). -/
def attemptState : Attempt → PllState
  | .first => .attempt1
  | .second => .attempt2

/-- R101 at the head of the loop: an attempt starts. -/
def loopGetPllLock (attempt : Attempt) (s : State) : Act :=
  .call (.tunerReadRegBuffer s.cfg.lockAddr LOCK_LEN) (.getPllLockRead attempt)
    { s with pllState := attemptState attempt }

/-- R101 from its first statement. -/
def enterGetPllLock (first : Bool) (s : State) : Act :=
  requireTuner s <| loopGetPllLock (if first then .first else .second) s

/-- The lock bit of a status buffer, after bit reversal (R101). -/
def lockBitSet (st : List Byte) : Bool := (st.getD LOCK_BYTE 0 &&& LOCK_BIT) != 0

/-- R101 with the status read. -/
def afterGetPllLockRead (attempt : Attempt) (v : Value) (s : State) : Act :=
  if lockBitSet v.asBytes then .ret (.bool true) { s with hasLock := true, pllState := .locked }
  else
    match attempt with
    | .second => .ret (.bool false) { s with hasLock := false, pllState := .unlocked }
    | .first => .call (.tunerWriteRegMask s.cfg.vcoselReg s.cfg.vcoselVal s.cfg.vcoselMask) .getPllLockNudged s

/-! ### Filter calibration -/

/-- R103 at the head of the loop. `again` says that one more pass is allowed after this one. -/
def loopCalibrate (again : Bool) (s : State) : Act := .call (.tunerBatch s.cfg.calPre) (.calibratePreDone again) s

/-- R103 from its first statement. -/
def enterCalibrateFilter (first : Bool) (s : State) : Act := requireTuner s <| loopCalibrate first s

/-- R103: the 56 MHz synthesis. -/
def afterCalibratePre (again : Bool) (s : State) : Act := .call (.tunerSetPll CAL_FREQ) (.calibrateSynthDone again) s

/-- R103: an unlocked synthesis is an error. -/
def afterCalibrateSynth (again : Bool) (s : State) : Act :=
  if s.hasLock then .call (.tunerBatch s.cfg.calPost) (.calibratePostDone again) s
  else .raise .pllNotLocked s

/-- R103: read the status. -/
def afterCalibratePost (again : Bool) (s : State) : Act :=
  .call (.tunerReadRegBuffer s.cfg.calAddr CAL_LEN) (.calibrateStatusRead again) s

/-- The calibration code of a status buffer: the low nibble of byte 4, the sentinel read as 0 (R103). -/
def calibrationCode (st : List Byte) : Byte :=
  let code := st.getD CAL_BYTE 0 &&& 0x0F
  if code = CAL_SENTINEL then 0 else code

/-- R103 with the status read: a non-zero code repeats the sequence once, if this was the first try. -/
def afterCalibrateStatus (again : Bool) (v : Value) (s : State) : Act :=
  let code := calibrationCode v.asBytes
  if code ≠ 0 ∧ again = true then loopCalibrate false s
  else .ret (.int code.toNat) s

end Sys2Proof.Machine
end

