-- ==== Sys2Proof/Machine/Sequencer.lean ====
section
/-! DEFINITION. The micro-step (R6, R26): the statements of the innermost frame are run until one of them issues a
transport primitive, raises, or returns from the outermost frame. -/

namespace Sys2Proof.Machine

/-- An operation runs from its first statement. -/
def enterOp (op : Op) (s : State) : Act :=
  match op with
  | .writeReg b r v w => enterWriteReg b r v w s
  | .readReg b r w => enterReadReg b r w s
  | .writeRegMask b r v m => enterWriteRegMask b r v m s
  | .writeDemodReg p a v w => enterWriteDemodReg p a v w s
  | .readDemodReg p a => enterReadDemodReg p a s
  | .openI2C => enterOpenI2C s
  | .closeI2C => enterCloseI2C s
  | .readI2CReg d r => enterReadI2CReg d r s
  | .writeI2CReg d r v => enterWriteI2CReg d r v s
  | .readI2CRegBuffer d r n => enterReadI2CRegBuffer d r n s
  | .writeI2CRegBuffer d r bs => enterWriteI2CRegBuffer d r bs s
  | .writeEach cs => loopWriteEach cs s
  | .claimInterface => enterClaimInterface s
  | .releaseInterface => enterReleaseInterface s
  | .readBulk n => enterReadBulk n s
  | .tunerCheck => enterTunerCheck s
  | .tunerInit => enterTunerInit s
  | .tunerInitElectronics => enterInitElectronics s
  | .tunerSetFrequency f => enterSetFrequency f s
  | .tunerSetMux f => enterSetMux f s
  | .tunerSetPll f => enterSetPll f s
  | .tunerGetPllLock b => enterGetPllLock b s
  | .tunerCalibrateFilter b => enterCalibrateFilter b s
  | .tunerSetAutoGain => enterSetAutoGain s
  | .tunerSetManualGain g => enterSetManualGain g s
  | .tunerReadRegBuffer a n => enterTunerReadRegBuffer a n s
  | .tunerWriteRegMask a v m => enterTunerWriteRegMask a v m s
  | .tunerClose => enterTunerClose s
  | .tunerBatch ws => loopTunerBatch ws s
  | .controllerOpen => enterOpen s
  | .setSampleRate r => enterSetSampleRate r s
  | .setCenterFrequency f => enterSetCenterFrequency f s
  | .setGain g => enterSetGain g s
  | .setGainInner g => enterSetGainInner g s
  | .resetBuffer => enterResetBuffer s
  | .readSamples n => enterReadSamples n s
  | .controllerClose => enterClose s

/-- An operation resumes at the statement its frame names, with the value handed to it: the transport's answer, or
the result of the sub-operation it called (R26). The state given has the frame taken off the stack. -/
def resume (f : Frame) (v : Value) (s : State) : Act :=
  match f with
  | .enter op => enterOp op s
  | .writeRegDone => .ret .unit s
  | .readRegData => returnDecoded v s
  | .writeRegMaskRead b r x m => afterWriteRegMaskRead b r x m v s
  | .writeRegMaskDone => .ret .unit s
  | .writeDemodRegPoll => afterWriteDemodRegSent s
  | .writeDemodRegDone => .ret .unit s
  | .readDemodRegData => returnDecoded v s
  | .openI2CDone => afterOpenI2C s
  | .closeI2CDone => afterCloseI2C s
  | .readI2CRegSelected d => afterReadI2CRegSelected d s
  | .readI2CRegData => afterReadI2CRegData v s
  | .writeI2CRegSelected d x => afterWriteI2CRegSelected d x s
  | .writeI2CRegDone => .ret .unit s
  | .readI2CRegBufferSelected d n => afterReadI2CRegBufferSelected d n s
  | .readI2CRegBufferData => returnBytes v s
  | .writeI2CRegBufferSelected d bs => afterWriteI2CRegBufferSelected d bs s
  | .writeI2CRegBufferDone => .ret .unit s
  | .writeEachNext cs => loopWriteEach cs s
  | .claimInterfaceDone => afterClaimInterface s
  | .releaseInterfaceDone => afterReleaseInterface s
  | .readBulkData => returnBytes v s
  | .tunerCheckRead => afterTunerCheckRead v s
  | .tunerInitNext i => loopTunerInit i s
  | .tunerInitDone => .ret .unit s
  | .initElectronicsPreDone => afterInitElectronicsPre s
  | .initElectronicsCalibrated => afterInitElectronicsCalibrated v s
  | .initElectronicsDone => .ret .unit s
  | .setFrequencyMuxDone f => afterSetFrequencyMux f s
  | .setFrequencyPllDone => afterSetFrequencyPll v s
  | .setMuxNext ws => loopSetMux ws s
  | .setPllPreDone f d0 md => afterSetPllPre f d0 md s
  | .setPllFineTune f d0 md => afterSetPllFineTune f d0 md v s
  | .setPllDividerDone f md => afterSetPllDivider f md s
  | .setPllNisiDone md n fr => afterSetPllNisi md n fr s
  | .setPllFracDone md n fr => afterSetPllFrac md n fr s
  | .setPllSdmHiDone md n sd => afterSetPllSdmHi md n sd s
  | .setPllSdmLoDone md n sd => afterSetPllSdmLo md n sd s
  | .setPllLockDone md n sd => afterSetPllLock md n sd s
  | .setPllPostLockDone md n sd => afterSetPllPostLock md n sd s
  | .getPllLockRead a => afterGetPllLockRead a v s
  | .getPllLockNudged => loopGetPllLock .second s
  | .calibratePreDone a => afterCalibratePre a s
  | .calibrateSynthDone a => afterCalibrateSynth a s
  | .calibratePostDone a => afterCalibratePost a s
  | .calibrateStatusRead a => afterCalibrateStatus a v s
  | .tunerBatchNext ws => loopTunerBatch ws s
  | .readRegBufferData => afterReadRegBuffer v s
  | .tunerWriteRegMaskDone => .ret .unit s
  | .tunerCloseNext rows => loopTunerClose rows s
  | .setAutoGainDone => .ret .unit s
  | .setManualGainPreDone g => afterSetManualGainPre g s
  | .setManualGainLnaDone m => afterSetManualGainLna m s
  | .setManualGainMixDone => .ret .unit s
  | .openUsbDone => afterOpenUsb s
  | .openClaimDone => afterOpenClaim s
  | .openDemodDone => afterOpenDemod s
  | .openRepeaterDone => afterOpenRepeater s
  | .openProbed => afterOpenProbed v s
  | .openIfDone => afterOpenIf s
  | .openInitDone => afterOpenInit s
  | .openGainDone => afterOpenGain s
  | .openCloseI2CDone => afterOpenCloseI2C s
  | .setSampleRateRatioDone a => afterSetSampleRateRatio a s
  | .setSampleRatePpmDone a => afterSetSampleRatePpm a s
  | .setSampleRateResetDone a => afterSetSampleRateReset a s
  | .setCenterFrequencyOpened t => afterSetCenterFrequencyOpened t s
  | .setCenterFrequencyTuned => afterSetCenterFrequencyTuned v s
  | .setCenterFrequencyClosed a => afterSetCenterFrequencyClosed a s
  | .setGainOpened g => afterSetGainOpened g s
  | .setGainApplied => afterSetGainApplied s
  | .setGainClosed => .ret .unit s
  | .setGainInnerDone => .ret .unit s
  | .resetBufferDone => afterResetBuffer s
  | .readSamplesData => returnBytes v s
  | .closeOpened => afterCloseOpened s
  | .closeTunerDone => afterCloseTuner s
  | .closeRepeaterDone => afterCloseRepeater s
  | .closeReleased => afterCloseReleased s

/-- What one run of statements leads to: more pure computation, the end of the step, or a model fault. -/
inductive Move where
  | more (s : State)
  | done (s : State)
  | fault (f : Fault)

/-- A value is returned to the frame below, or to the command port from the outermost one (R26). -/
def returnValue (v : Value) (s : State) : Move :=
  match s.frames with
  | [] => .done (respond v s)
  | _ :: _ => .more { s with latch := v }

/-- The frame stack after a run of statements (R26): `call` pushes, `return` pops, `raise` pops every frame. A
primitive is issued and answered within the step (R6). -/
def Act.move : Act → Move
  | .prim p k s => .done (transact p { s with frames := k :: s.frames })
  | .call op k s => .more { s with frames := .enter op :: k :: s.frames, latch := .unit }
  | .ret v s => returnValue v s
  | .raise e s => .done (errorEntry e s)
  | .fault f => .fault f

/-- One run of statements of the innermost frame. With no command in progress nothing runs. -/
def micro (s : State) : Move :=
  match s.frames with
  | [] => .done s
  | f :: fs => (resume f s.latch { s with frames := fs }).move

/-- Runs of statements until the step ends (R26). The bound only cuts a step, which the next one then continues; it
is above the number of runs between two primitives (log entry 10). -/
def runMoves : Nat → State → Host.Outcome State Fault Refusal
  | 0, s => .next s
  | n + 1, s =>
    match micro s with
    | .more t => runMoves n t
    | .done t => .next t
    | .fault f => .fault f

/-- The bound of `runMoves`. -/
def MOVE_BOUND : Nat := 64

/-- Runs the block from its position to the end of the step. -/
def advance (s : State) : Host.Outcome State Fault Refusal := runMoves MOVE_BOUND s

/-- The position at the first statement of an operation, above the operations in progress. -/
def State.entering (s : State) (op : Op) : State := { s with frames := .enter op :: s.frames, latch := .unit }

/-- The first step of an operation. -/
def begin (op : Op) (s : State) : Host.Outcome State Fault Refusal := advance (s.entering op)

/-- An internal command (R138): accepted when `TEST_PORT` is true and the session is IDLE or OPEN. -/
def beginInternal (op : Op) (s : State) : Host.Outcome State Fault Refusal :=
  if s.cfg.testPort && sessionLive s.session then begin op s else .fault .notPermitted

end Sys2Proof.Machine
end

