-- ==== Sys2Proof/Machine/BatchRecords.lean ====
section
/-! DEFINITION. The meanings of the WriteCommand records (R51, R75). A record is one element of a batch: it runs above
the `writeEach` frame that took it, as part of the command that owns the batch, so it is checked for no permission of its
own (log entry 16). -/

namespace Sys2Proof.Machine

/-- tag 0x00 `Reg`, dispatched to writeReg (R64). -/
def execWcReg (b r v w : Int) (s : State) : Host.Outcome State Fault Refusal := begin (.writeReg b r v w) s

/-- tag 0x01 `RegMask`, dispatched to writeRegMask (R66). -/
def execWcRegMask (b r v m : Int) (s : State) : Host.Outcome State Fault Refusal := begin (.writeRegMask b r v m) s

/-- tag 0x02 `DemodReg`, dispatched to writeDemodReg (R67). -/
def execWcDemodReg (p a v w : Int) (s : State) : Host.Outcome State Fault Refusal := begin (.writeDemodReg p a v w) s

/-- tag 0x03 `I2CReg`, dispatched to writeI2CReg (R72). -/
def execWcI2CReg (d r v : Int) (s : State) : Host.Outcome State Fault Refusal := begin (.writeI2CReg d r v) s

end Sys2Proof.Machine
end

