-- ==== Sys2Proof/Machine/BusCommands.lean ====
section
/-! DEFINITION. The meanings of the RegisterBus commands (R64 to R78). Each is accepted as R138 says; its first step runs its operation up to the first transport primitive (R6). -/

namespace Sys2Proof.Machine

/-- 0x01 `writeReg` (R64). -/
def execWriteReg (b r v w : Int) (s : State) : Host.Outcome State Fault Refusal := beginInternal (.writeReg b r v w) s

/-- 0x02 `readReg` (R65). -/
def execReadReg (b r w : Int) (s : State) : Host.Outcome State Fault Refusal := beginInternal (.readReg b r w) s

/-- 0x03 `writeRegMask` (R66). -/
def execWriteRegMask (b r v m : Int) (s : State) : Host.Outcome State Fault Refusal := beginInternal (.writeRegMask b r v m) s

/-- 0x04 `writeDemodReg` (R67). -/
def execWriteDemodReg (p a v w : Int) (s : State) : Host.Outcome State Fault Refusal := beginInternal (.writeDemodReg p a v w) s

/-- 0x05 `readDemodReg` (R68). -/
def execReadDemodReg (p a : Int) (s : State) : Host.Outcome State Fault Refusal := beginInternal (.readDemodReg p a) s

/-- 0x06 `openI2C` (R69). -/
def execOpenI2C (s : State) : Host.Outcome State Fault Refusal := beginInternal (.openI2C) s

/-- 0x07 `closeI2C` (R70). -/
def execCloseI2C (s : State) : Host.Outcome State Fault Refusal := beginInternal (.closeI2C) s

/-- 0x08 `readI2CReg` (R71). -/
def execReadI2CReg (d r : Int) (s : State) : Host.Outcome State Fault Refusal := beginInternal (.readI2CReg d r) s

/-- 0x09 `writeI2CReg` (R72). -/
def execWriteI2CReg (d r v : Int) (s : State) : Host.Outcome State Fault Refusal := beginInternal (.writeI2CReg d r v) s

/-- 0x0A `readI2CRegBuffer` (R73). -/
def execReadI2CRegBuffer (d r n : Int) (s : State) : Host.Outcome State Fault Refusal := beginInternal (.readI2CRegBuffer d r n) s

/-- 0x0B `writeI2CRegBuffer` (R74). -/
def execWriteI2CRegBuffer (d r : Int) (bs : List Byte) (s : State) : Host.Outcome State Fault Refusal := beginInternal (.writeI2CRegBuffer d r bs) s

/-- 0x0C `writeEach` (R75). -/
def execWriteEach (cs : List WriteCommand) (s : State) : Host.Outcome State Fault Refusal := beginInternal (.writeEach cs) s

/-- 0x0D `claimInterface` (R76). -/
def execClaimInterface (s : State) : Host.Outcome State Fault Refusal := beginInternal (.claimInterface) s

/-- 0x0E `releaseInterface` (R77). -/
def execReleaseInterface (s : State) : Host.Outcome State Fault Refusal := beginInternal (.releaseInterface) s

/-- 0x0F `readBulk` (R78). -/
def execReadBulk (n : Int) (s : State) : Host.Outcome State Fault Refusal := beginInternal (.readBulk n) s

end Sys2Proof.Machine
end

