-- ==== Sys2Proof/Machine/ControllerCommands.lean ====
section
/-! DEFINITION. The meanings of the external commands (R112 to R126). Each checks its session state (R112) as its first statement; its first step runs its operation up to the first transport primitive (R6). -/

namespace Sys2Proof.Machine

/-- 0x40 `open` (R113). -/
def execOpen (s : State) : Host.Outcome State Fault Refusal := begin (.controllerOpen) s

/-- 0x41 `setSampleRate` (R118). -/
def execSetSampleRate (r : Int) (s : State) : Host.Outcome State Fault Refusal := begin (.setSampleRate r) s

/-- 0x42 `setCenterFrequency` (R121). -/
def execSetCenterFrequency (f : Int) (s : State) : Host.Outcome State Fault Refusal := begin (.setCenterFrequency f) s

/-- 0x43 `setGain` (R116). -/
def execSetGain (g : Option Rat) (s : State) : Host.Outcome State Fault Refusal := begin (.setGain g) s

/-- 0x44 `resetBuffer` (R122). -/
def execResetBuffer (s : State) : Host.Outcome State Fault Refusal := begin (.resetBuffer) s

/-- 0x45 `readSamples` (R123). -/
def execReadSamples (n : Int) (s : State) : Host.Outcome State Fault Refusal := begin (.readSamples n) s

/-- 0x46 `close` (R125). -/
def execClose (s : State) : Host.Outcome State Fault Refusal := begin (.controllerClose) s

end Sys2Proof.Machine
end

