-- ==== Sys2Proof/Machine/TunerCommands.lean ====
section
/-! DEFINITION. The meanings of the tuner commands (R79 to R111). Each is accepted as R138 says; its first step runs its operation up to the first transport primitive (R6). -/

namespace Sys2Proof.Machine

/-- 0x20 `tuner.check` (R80). -/
def execTunerCheck (s : State) : Host.Outcome State Fault Refusal := beginInternal (.tunerCheck) s

/-- 0x21 `tuner.init` (R86). -/
def execTunerInit (s : State) : Host.Outcome State Fault Refusal := beginInternal (.tunerInit) s

/-- 0x22 `tuner.initElectronics` (R87). -/
def execTunerInitElectronics (s : State) : Host.Outcome State Fault Refusal := beginInternal (.tunerInitElectronics) s

/-- 0x23 `tuner.setFrequency` (R91). -/
def execTunerSetFrequency (f : Int) (s : State) : Host.Outcome State Fault Refusal := beginInternal (.tunerSetFrequency f) s

/-- 0x24 `tuner.setMux` (R90). -/
def execTunerSetMux (f : Int) (s : State) : Host.Outcome State Fault Refusal := beginInternal (.tunerSetMux f) s

/-- 0x25 `tuner.setPll` (R92). -/
def execTunerSetPll (f : Int) (s : State) : Host.Outcome State Fault Refusal := beginInternal (.tunerSetPll f) s

/-- 0x26 `tuner.getPllLock` (R101). -/
def execTunerGetPllLock (first : Bool) (s : State) : Host.Outcome State Fault Refusal := beginInternal (.tunerGetPllLock first) s

/-- 0x27 `tuner.calibrateFilter` (R103). -/
def execTunerCalibrateFilter (first : Bool) (s : State) : Host.Outcome State Fault Refusal := beginInternal (.tunerCalibrateFilter first) s

/-- 0x28 `tuner.setAutoGain` (R109). -/
def execTunerSetAutoGain (s : State) : Host.Outcome State Fault Refusal := beginInternal (.tunerSetAutoGain) s

/-- 0x29 `tuner.setManualGain` (R110). -/
def execTunerSetManualGain (g : Rat) (s : State) : Host.Outcome State Fault Refusal := beginInternal (.tunerSetManualGain g) s

/-- 0x2A `tuner.readRegBuffer` (R82). -/
def execTunerReadRegBuffer (a n : Int) (s : State) : Host.Outcome State Fault Refusal := beginInternal (.tunerReadRegBuffer a n) s

/-- 0x2B `tuner.writeRegMask` (R83). -/
def execTunerWriteRegMask (a v m : Int) (s : State) : Host.Outcome State Fault Refusal := beginInternal (.tunerWriteRegMask a v m) s

/-- 0x2C `tuner.close` (R88). -/
def execTunerClose (s : State) : Host.Outcome State Fault Refusal := beginInternal (.tunerClose) s

end Sys2Proof.Machine
end

