-- ==== Sys2Proof/Machine/Dispatch.lean ====
section
/-! DEFINITION. One arm per constructor of `Instr`, each one call of its meaning. -/

namespace Sys2Proof.Machine

def exec (i : Instr) (s : State) : Host.Outcome State Fault Refusal :=
  match i with
  | .writeReg b r v w => Sys2Proof.Machine.execWriteReg b r v w s
  | .readReg b r w => Sys2Proof.Machine.execReadReg b r w s
  | .writeRegMask b r v m => Sys2Proof.Machine.execWriteRegMask b r v m s
  | .writeDemodReg p a v w => Sys2Proof.Machine.execWriteDemodReg p a v w s
  | .readDemodReg p a => Sys2Proof.Machine.execReadDemodReg p a s
  | .openI2C => Sys2Proof.Machine.execOpenI2C s
  | .closeI2C => Sys2Proof.Machine.execCloseI2C s
  | .readI2CReg d r => Sys2Proof.Machine.execReadI2CReg d r s
  | .writeI2CReg d r v => Sys2Proof.Machine.execWriteI2CReg d r v s
  | .readI2CRegBuffer d r n => Sys2Proof.Machine.execReadI2CRegBuffer d r n s
  | .writeI2CRegBuffer d r bs => Sys2Proof.Machine.execWriteI2CRegBuffer d r bs s
  | .writeEach cs => Sys2Proof.Machine.execWriteEach cs s
  | .claimInterface => Sys2Proof.Machine.execClaimInterface s
  | .releaseInterface => Sys2Proof.Machine.execReleaseInterface s
  | .readBulk n => Sys2Proof.Machine.execReadBulk n s
  | .tunerCheck => Sys2Proof.Machine.execTunerCheck s
  | .tunerInit => Sys2Proof.Machine.execTunerInit s
  | .tunerInitElectronics => Sys2Proof.Machine.execTunerInitElectronics s
  | .tunerSetFrequency f => Sys2Proof.Machine.execTunerSetFrequency f s
  | .tunerSetMux f => Sys2Proof.Machine.execTunerSetMux f s
  | .tunerSetPll f => Sys2Proof.Machine.execTunerSetPll f s
  | .tunerGetPllLock first => Sys2Proof.Machine.execTunerGetPllLock first s
  | .tunerCalibrateFilter first => Sys2Proof.Machine.execTunerCalibrateFilter first s
  | .tunerSetAutoGain => Sys2Proof.Machine.execTunerSetAutoGain s
  | .tunerSetManualGain g => Sys2Proof.Machine.execTunerSetManualGain g s
  | .tunerReadRegBuffer a n => Sys2Proof.Machine.execTunerReadRegBuffer a n s
  | .tunerWriteRegMask a v m => Sys2Proof.Machine.execTunerWriteRegMask a v m s
  | .tunerClose => Sys2Proof.Machine.execTunerClose s
  | .controllerOpen => Sys2Proof.Machine.execOpen s
  | .setSampleRate r => Sys2Proof.Machine.execSetSampleRate r s
  | .setCenterFrequency f => Sys2Proof.Machine.execSetCenterFrequency f s
  | .setGain g => Sys2Proof.Machine.execSetGain g s
  | .resetBuffer => Sys2Proof.Machine.execResetBuffer s
  | .readSamples n => Sys2Proof.Machine.execReadSamples n s
  | .controllerClose => Sys2Proof.Machine.execClose s
  | .wcReg b r v w => Sys2Proof.Machine.execWcReg b r v w s
  | .wcRegMask b r v m => Sys2Proof.Machine.execWcRegMask b r v m s
  | .wcDemodReg p a v w => Sys2Proof.Machine.execWcDemodReg p a v w s
  | .wcI2CReg d r v => Sys2Proof.Machine.execWcI2CReg d r v s

end Sys2Proof.Machine
end

