-- ==== Sys2Proof/Machine/Fetch.lean ====
section
/-! DEFINITION. Where the block takes its next instruction from: the command port when no command is in progress
(R26, R45), and the batch when `writeEach` stands at the head of its loop (R75). -/

namespace Sys2Proof.Machine

/-- What the next step does. -/
inductive Fetched where
  /-- run an instruction from this state -/
  | instr (i : Instr) (s : State)
  /-- complete the primitive in flight (R6 c) -/
  | answer (p : Primitive)
  /-- resume the operation in progress -/
  | resume
  /-- no command is submitted -/
  | wait
  /-- a reserved opcode (R59) -/
  | unknown
  /-- a table opcode whose operands are not of the number and types R57 gives it -/
  | malformed (opcode : Byte)

/-- The session an external command requires (R112). -/
def requiredSession (opcode : Byte) : Session := if opcode.toNat = 0x40 then .idle else .opened

/-- The fault of a record whose operands are not of the number and types R57 gives its opcode (log entry 7). An operand
of another type is outside the range R58 gives it, so it is an operand check (R130, 0x84), and R135 puts the operand
checks after the permission (R138) and the session (R112). -/
def malformedFault (opcode : Byte) (s : State) : Fault :=
  if opcode.toNat < 0x40 then
    if s.cfg.testPort && sessionLive s.session then .valueOutOfRange else .notPermitted
  else if s.session = requiredSession opcode then .valueOutOfRange
  else .wrongSessionState

/-- The next command of the command port (R45). -/
def fetchCommand (s : State) : Fetched :=
  match s.commands with
  | [] => .wait
  | r :: rest =>
    match decodeCmd r with
    | .instr i => .instr i { s with commands := rest }
    | .reserved => .unknown
    | .malformed => .malformed r.opcode

/-- The next thing to do. A record at the head of a batch is taken as its instruction; an unknown one is left to
`writeEach`, which ends there (R52). -/
def fetch (s : State) : Fetched :=
  match s.inflight with
  | some p => .answer p
  | none =>
    match s.frames with
    | [] => fetchCommand s
    | .writeEachNext (c :: rest) :: fs =>
      match c.instr with
      | some i => .instr i { s with frames := .writeEachNext rest :: fs }
      | none => .resume
    | _ :: _ => .resume

/-- The configuration of a block whose command port accepts a record: an internal command, which has an opcode below
0x40, needs the test port (R138). -/
def acceptingPort (c : Config) (r : Record) : Config := { c with testPort := c.testPort || decide (r.opcode.toNat < 0x40) }

/-- Places a record where the next step fetches and runs it (log entry 5): a CMD record first on an idle command port that
accepts it, a WC record at the head of a batch in progress. -/
def placeForm (f : Form) (s : State) : State :=
  match f with
  | .cmd r => { s with cfg := acceptingPort s.cfg r, inflight := none, frames := [], commands := r :: s.commands }
  | .wc r => { s with inflight := none, frames := [.writeEachNext [decodeWC r]] }

end Sys2Proof.Machine
end

