-- ==== Sys2Proof/Machine/Step.lean ====
section
/-! DEFINITION. One step of the block (R6). -/

namespace Sys2Proof.Machine

/-- One step. A block with an ill-formed configuration faults before any command (R8). Otherwise the step fetches:
it runs an instruction, completes the primitive in flight, resumes the operation in progress, or waits where no
command is submitted. -/
def step (s : State) : Host.Outcome State Fault Refusal :=
  if configured s then
    match fetch s with
    | .instr i t => exec i t
    | .answer p => .next (takeAnswer p s)
    | .resume => advance s
    | .wait => .next s
    | .unknown => .fault .unknownCommand
    | .malformed op => .fault (malformedFault op s)
  else .fault .invalidConfiguration

/-- The state with the instruction of a table word placed where `step` fetches next. -/
def State.withFetchWord (s : State) (nbits w : Nat) : State :=
  if nbits = 8 then placeForm (tableForm w) s else s

end Sys2Proof.Machine
end

