-- ==== Sys2Proof/Safety.lean ====
section
/-! DEFINITION. What a good state of the block is, in the terms the statements use: the call structure of the frame
stack (R16, R26), the state machines between commands (R19, R22), and what it is for a command to complete. -/

namespace Sys2Proof.Machine

/-! ### The frame stack -/

/-- The operations without their operands (R16). -/
inductive OpKind where
  | writeReg | readReg | writeRegMask | writeDemodReg | readDemodReg | openI2C | closeI2C
  | readI2CReg | writeI2CReg | readI2CRegBuffer | writeI2CRegBuffer | writeEach
  | claimInterface | releaseInterface | readBulk
  | tunerCheck | tunerInit | tunerInitElectronics | tunerSetFrequency | tunerSetMux | tunerSetPll
  | tunerGetPllLock | tunerCalibrateFilter | tunerSetAutoGain | tunerSetManualGain | tunerReadRegBuffer
  | tunerWriteRegMask | tunerClose | tunerBatch
  | controllerOpen | setSampleRate | setCenterFrequency | setGain | setGainInner | resetBuffer | readSamples
  | controllerClose
deriving DecidableEq, Repr

/-- The kind of an operation. -/
def Op.kind : Op → OpKind
  | .writeReg _ _ _ _ => .writeReg
  | .readReg _ _ _ => .readReg
  | .writeRegMask _ _ _ _ => .writeRegMask
  | .writeDemodReg _ _ _ _ => .writeDemodReg
  | .readDemodReg _ _ => .readDemodReg
  | .openI2C => .openI2C
  | .closeI2C => .closeI2C
  | .readI2CReg _ _ => .readI2CReg
  | .writeI2CReg _ _ _ => .writeI2CReg
  | .readI2CRegBuffer _ _ _ => .readI2CRegBuffer
  | .writeI2CRegBuffer _ _ _ => .writeI2CRegBuffer
  | .writeEach _ => .writeEach
  | .claimInterface => .claimInterface
  | .releaseInterface => .releaseInterface
  | .readBulk _ => .readBulk
  | .tunerCheck => .tunerCheck
  | .tunerInit => .tunerInit
  | .tunerInitElectronics => .tunerInitElectronics
  | .tunerSetFrequency _ => .tunerSetFrequency
  | .tunerSetMux _ => .tunerSetMux
  | .tunerSetPll _ => .tunerSetPll
  | .tunerGetPllLock _ => .tunerGetPllLock
  | .tunerCalibrateFilter _ => .tunerCalibrateFilter
  | .tunerSetAutoGain => .tunerSetAutoGain
  | .tunerSetManualGain _ => .tunerSetManualGain
  | .tunerReadRegBuffer _ _ => .tunerReadRegBuffer
  | .tunerWriteRegMask _ _ _ => .tunerWriteRegMask
  | .tunerClose => .tunerClose
  | .tunerBatch _ => .tunerBatch
  | .controllerOpen => .controllerOpen
  | .setSampleRate _ => .setSampleRate
  | .setCenterFrequency _ => .setCenterFrequency
  | .setGain _ => .setGain
  | .setGainInner _ => .setGainInner
  | .resetBuffer => .resetBuffer
  | .readSamples _ => .readSamples
  | .controllerClose => .controllerClose

/-- The operation a frame belongs to (R26). -/
def Frame.kind : Frame → OpKind
  | .enter op => op.kind
  | .writeRegDone => .writeReg
  | .readRegData => .readReg
  | .writeRegMaskRead _ _ _ _ => .writeRegMask
  | .writeRegMaskDone => .writeRegMask
  | .writeDemodRegPoll => .writeDemodReg
  | .writeDemodRegDone => .writeDemodReg
  | .readDemodRegData => .readDemodReg
  | .openI2CDone => .openI2C
  | .closeI2CDone => .closeI2C
  | .readI2CRegSelected _ => .readI2CReg
  | .readI2CRegData => .readI2CReg
  | .writeI2CRegSelected _ _ => .writeI2CReg
  | .writeI2CRegDone => .writeI2CReg
  | .readI2CRegBufferSelected _ _ => .readI2CRegBuffer
  | .readI2CRegBufferData => .readI2CRegBuffer
  | .writeI2CRegBufferSelected _ _ => .writeI2CRegBuffer
  | .writeI2CRegBufferDone => .writeI2CRegBuffer
  | .writeEachNext _ => .writeEach
  | .claimInterfaceDone => .claimInterface
  | .releaseInterfaceDone => .releaseInterface
  | .readBulkData => .readBulk
  | .tunerCheckRead => .tunerCheck
  | .tunerInitNext _ => .tunerInit
  | .tunerInitDone => .tunerInit
  | .initElectronicsPreDone => .tunerInitElectronics
  | .initElectronicsCalibrated => .tunerInitElectronics
  | .initElectronicsDone => .tunerInitElectronics
  | .setFrequencyMuxDone _ => .tunerSetFrequency
  | .setFrequencyPllDone => .tunerSetFrequency
  | .setMuxNext _ => .tunerSetMux
  | .setPllPreDone _ _ _ => .tunerSetPll
  | .setPllFineTune _ _ _ => .tunerSetPll
  | .setPllDividerDone _ _ => .tunerSetPll
  | .setPllNisiDone _ _ _ => .tunerSetPll
  | .setPllFracDone _ _ _ => .tunerSetPll
  | .setPllSdmHiDone _ _ _ => .tunerSetPll
  | .setPllSdmLoDone _ _ _ => .tunerSetPll
  | .setPllLockDone _ _ _ => .tunerSetPll
  | .setPllPostLockDone _ _ _ => .tunerSetPll
  | .getPllLockRead _ => .tunerGetPllLock
  | .getPllLockNudged => .tunerGetPllLock
  | .calibratePreDone _ => .tunerCalibrateFilter
  | .calibrateSynthDone _ => .tunerCalibrateFilter
  | .calibratePostDone _ => .tunerCalibrateFilter
  | .calibrateStatusRead _ => .tunerCalibrateFilter
  | .tunerBatchNext _ => .tunerBatch
  | .readRegBufferData => .tunerReadRegBuffer
  | .tunerWriteRegMaskDone => .tunerWriteRegMask
  | .tunerCloseNext _ => .tunerClose
  | .setAutoGainDone => .tunerSetAutoGain
  | .setManualGainPreDone _ => .tunerSetManualGain
  | .setManualGainLnaDone _ => .tunerSetManualGain
  | .setManualGainMixDone => .tunerSetManualGain
  | .openUsbDone => .controllerOpen
  | .openClaimDone => .controllerOpen
  | .openDemodDone => .controllerOpen
  | .openRepeaterDone => .controllerOpen
  | .openProbed => .controllerOpen
  | .openIfDone => .controllerOpen
  | .openInitDone => .controllerOpen
  | .openGainDone => .controllerOpen
  | .openCloseI2CDone => .controllerOpen
  | .setSampleRateRatioDone _ => .setSampleRate
  | .setSampleRatePpmDone _ => .setSampleRate
  | .setSampleRateResetDone _ => .setSampleRate
  | .setCenterFrequencyOpened _ => .setCenterFrequency
  | .setCenterFrequencyTuned => .setCenterFrequency
  | .setCenterFrequencyClosed _ => .setCenterFrequency
  | .setGainOpened _ => .setGain
  | .setGainApplied => .setGain
  | .setGainClosed => .setGain
  | .setGainInnerDone => .setGainInner
  | .resetBufferDone => .resetBuffer
  | .readSamplesData => .readSamples
  | .closeOpened => .controllerClose
  | .closeTunerDone => .controllerClose
  | .closeRepeaterDone => .controllerClose
  | .closeReleased => .controllerClose

/-- Whether a frame waits for a sub-operation of a kind: the call its pseudocode made just before its statement.
A frame that waits for the transport, or stands at its first statement, waits for none. -/
def Frame.awaits (f : Frame) (k : OpKind) : Bool :=
  match f with
  | .enter _ | .writeRegDone | .readRegData | .writeDemodRegPoll | .readDemodRegData | .readI2CRegSelected _
  | .readI2CRegData | .writeI2CRegSelected _ _ | .writeI2CRegDone | .readI2CRegBufferSelected _ _
  | .readI2CRegBufferData | .writeI2CRegBufferSelected _ _ | .writeI2CRegBufferDone | .claimInterfaceDone
  | .releaseInterfaceDone | .readBulkData => false
  | .writeRegMaskRead _ _ _ _ => k == .readReg
  | .writeRegMaskDone => k == .writeReg
  | .writeDemodRegDone => k == .readDemodReg
  | .openI2CDone | .closeI2CDone => k == .writeDemodReg
  | .writeEachNext _ => k == .writeReg || k == .writeRegMask || k == .writeDemodReg || k == .writeI2CReg
  | .tunerCheckRead => k == .readI2CReg
  | .tunerInitNext _ => k == .writeI2CReg
  | .tunerInitDone => k == .tunerInitElectronics
  | .initElectronicsPreDone | .initElectronicsDone => k == .tunerBatch
  | .initElectronicsCalibrated => k == .tunerCalibrateFilter
  | .setFrequencyMuxDone _ => k == .tunerSetMux
  | .setFrequencyPllDone => k == .tunerSetPll
  | .setMuxNext _ => k == .tunerWriteRegMask
  | .setPllPreDone _ _ _ => k == .tunerBatch
  | .setPllFineTune _ _ _ => k == .tunerReadRegBuffer
  | .setPllDividerDone _ _ | .setPllNisiDone _ _ _ | .setPllFracDone _ _ _ | .setPllSdmHiDone _ _ _
  | .setPllSdmLoDone _ _ _ | .setPllPostLockDone _ _ _ => k == .tunerWriteRegMask
  | .setPllLockDone _ _ _ => k == .tunerGetPllLock
  | .getPllLockRead _ => k == .tunerReadRegBuffer
  | .getPllLockNudged => k == .tunerWriteRegMask
  | .calibratePreDone _ | .calibratePostDone _ => k == .tunerBatch
  | .calibrateSynthDone _ => k == .tunerSetPll
  | .calibrateStatusRead _ => k == .tunerReadRegBuffer
  | .tunerBatchNext _ => k == .tunerWriteRegMask
  | .readRegBufferData => k == .readI2CRegBuffer
  | .tunerWriteRegMaskDone => k == .writeI2CReg
  | .tunerCloseNext _ => k == .tunerWriteRegMask
  | .setAutoGainDone | .setManualGainPreDone _ => k == .tunerBatch
  | .setManualGainLnaDone _ | .setManualGainMixDone => k == .tunerWriteRegMask
  | .openUsbDone | .openDemodDone | .openIfDone => k == .writeEach
  | .openClaimDone => k == .claimInterface
  | .openRepeaterDone => k == .openI2C
  | .openProbed => k == .tunerCheck
  | .openInitDone => k == .tunerInit
  | .openGainDone => k == .setGainInner
  | .openCloseI2CDone => k == .closeI2C
  | .setSampleRateRatioDone _ | .setSampleRatePpmDone _ | .setSampleRateResetDone _ => k == .writeEach
  | .setCenterFrequencyOpened _ => k == .openI2C
  | .setCenterFrequencyTuned => k == .tunerSetFrequency
  | .setCenterFrequencyClosed _ => k == .closeI2C
  | .setGainOpened _ => k == .openI2C
  | .setGainApplied => k == .setGainInner
  | .setGainClosed => k == .closeI2C
  | .setGainInnerDone => k == .tunerSetAutoGain || k == .tunerSetManualGain
  | .resetBufferDone => k == .writeEach
  | .readSamplesData => k == .readBulk
  | .closeOpened => k == .openI2C
  | .closeTunerDone => k == .tunerClose
  | .closeRepeaterDone => k == .closeI2C
  | .closeReleased => k == .releaseInterface

/-- The stack is a chain of calls: each frame waits for the operation of the frame above it. -/
def stackOk : List Frame → Bool
  | [] => true
  | [_] => true
  | f :: g :: rest => g.awaits f.kind && stackOk (g :: rest)

/-- Whether a frame is one of a command that is past its session check: it has been entered and belongs to one of
the seven external commands. `some` gives the session the command checked (R112). -/
def Frame.checkedSession (f : Frame) : Option Session :=
  match f with
  | .openUsbDone | .openClaimDone | .openDemodDone | .openRepeaterDone | .openProbed | .openIfDone | .openInitDone
  | .openGainDone | .openCloseI2CDone => some .idle
  | .setSampleRateRatioDone _ | .setSampleRatePpmDone _ | .setSampleRateResetDone _ | .setCenterFrequencyOpened _
  | .setCenterFrequencyTuned | .setCenterFrequencyClosed _ | .setGainOpened _ | .setGainApplied | .setGainClosed
  | .resetBufferDone | .readSamplesData | .closeOpened | .closeTunerDone | .closeRepeaterDone | .closeReleased =>
    some .opened
  | _ => none

/-- The session is the one every command in progress has checked. -/
def sessionChecked (s : State) : Bool :=
  s.frames.all fun f =>
    match f.checkedSession with
    | some want => s.session == want
    | none => true

/-- `getPllLock` is past its first statement: an attempt is in progress (R102). -/
def Frame.isAttempt (f : Frame) : Bool :=
  match f with
  | .getPllLockRead _ | .getPllLockNudged => true
  | _ => false

/-- `hasLock = (pllState = LOCKED)`, and `pllState` is LOCKED or UNLOCKED (R22). -/
def lockConsistent (s : State) : Bool :=
  match s.pllState with
  | .locked => s.hasLock
  | .unlocked => !s.hasLock
  | .attempt1 => false
  | .attempt2 => false

/-- R22: outside an attempt of `getPllLock`, and while the session is not FAILED, the lock flag and the tuning state
agree. -/
def lockInv (s : State) : Bool := s.frames.any Frame.isAttempt || s.session == .failed || lockConsistent s

/-- Whether a frame belongs to `open` at a point where the crystal frequency is set (R113). -/
def Frame.pastCrystal (f : Frame) : Bool :=
  match f with
  | .openRepeaterDone | .openProbed | .openIfDone | .openInitDone | .openGainDone | .openCloseI2CDone => true
  | _ => false

/-- R24, R92: `xtalFreq`, once set, is the ppm-corrected crystal; it is set where `tunerPresent` is true and where
`open` has passed its computation. -/
def crystalInv (s : State) : Bool :=
  match s.xtalFreq with
  | some x => x == correctedCrystal s.ppm
  | none => !s.tunerPresent && !s.frames.any Frame.pastCrystal

/-- A command is in progress only in a session that accepts commands (R134, R138), and nothing is in flight between
steps (R6). -/
def progressInv (s : State) : Bool := (s.frames.isEmpty || sessionLive s.session) && s.inflight == none

/-- A frame that stands at the first statement of an external command. It belongs at the bottom of the stack. -/
def Frame.isController (f : Frame) : Bool :=
  match f.kind with
  | .controllerOpen | .setSampleRate | .setCenterFrequency | .setGain | .resetBuffer | .readSamples
  | .controllerClose => true
  | _ => false

/-- The invariant of the block between steps. -/
def State.inv (s : State) : Bool :=
  stackOk s.frames && sessionChecked s && lockInv s && crystalInv s && progressInv s

/-! ### Completing a command -/

/-- No command is in progress, nothing is in flight, and the configuration is admissible: the block takes a command
next (R26). -/
def Ready (s : State) : Prop := configured s = true ∧ s.frames = [] ∧ s.inflight = none

/-- `Ready`, and the command port accepts internal commands (R138). -/
def ReadyInternal (s : State) : Prop := Ready s ∧ s.cfg.testPort = true ∧ sessionLive s.session = true

/-- `Ready`, and the session is the one an external command requires (R112). -/
def ReadyExternal (want : Session) (s : State) : Prop := Ready s ∧ s.session = want

/-- A batch is at the head of its loop with no record left after the one that runs. -/
def ReadyRecord (s : State) : Prop :=
  configured s = true ∧ s.frames = [.writeEachNext []] ∧ s.inflight = none

/-- The tuner can be reached: it is present and the repeater is open (R79, R71). -/
def TunerReachable (s : State) : Prop := s.tunerPresent = true ∧ s.i2cOpen = true

/-- Every cell of the shadow bank holds a byte (R20), as it does from `tuner.init` on. -/
def ShadowReady (s : State) : Prop := ∀ i : Fin 27, s.shadow[i].isSome = true

end Sys2Proof.Machine
end

