-- ==== Sys2Proof/Safety/Direct.lean ====
section
/-! DEFINITION. The operations in direct style: each rule's pseudocode as one function that runs the whole operation
against a transport, with no frames and no steps. The statements compare the machine, which suspends at every transport
primitive (R6, R26), with these functions. -/

namespace Sys2Proof.Machine

/-- A transport as a command sees it (R37): its answer to the k-th primitive of the command. -/
abbrev Transport := Nat → Primitive → Answer

/-- How far a command has come: the block's state, and the answers the transport has given it, oldest first. -/
structure Run where
  state : State
  answers : List Answer

/-- How an operation ends (R15): with its result, with an error, or with a model fault. -/
inductive Result (α : Type) where
  | ok (v : α) (r : Run)
  | error (e : Error) (r : Run)
  | fault (f : Fault) (r : Run)

/-- Sequencing (R15): an error or a fault ends every enclosing operation. -/
def Result.andThen {α β : Type} (x : Result α) (g : α → Run → Result β) : Result β :=
  match x with
  | .ok v r => g v r
  | .error e r => .error e r
  | .fault f r => .fault f r

/-- The result of an operation as the value its command answers (R57). -/
def Result.map {α β : Type} (w : α → β) (x : Result α) : Result β := x.andThen fun v r => .ok (w v) r

/-- An operand turned away. -/
def Stop.result {α : Type} (r : Run) : Stop → Result α
  | .error e => .error e r
  | .fault f => .fault f r

/-- A state write. -/
def Run.write (r : Run) (s : State) : Run := { r with state := s }

/-- The command's first position: nothing has been asked. -/
def Run.start (s : State) : Run := ⟨s, []⟩

/-- The position after one more primitive. -/
def Run.asked (r : Run) (p : Primitive) (a : Answer) : Run :=
  ⟨{ r.state with trace := r.state.trace ++ [p] }, r.answers ++ [a]⟩

/-- One transport primitive (R14, R63). -/
def ask (O : Transport) (p : Primitive) (r : Run) : Result Value :=
  let a := O r.answers.length p
  match primitiveResult p a with
  | .ok v => .ok v (r.asked p a)
  | .error e => .error e (r.asked p a)

/-! ### RegisterBus -/

/-- R64. -/
def directWriteReg (O : Transport) (b reg v w : Int) (r : Run) : Result Unit :=
  match blockOf b with
  | none => .fault .valueOutOfRange r
  | some blk =>
    if inRange 0 0xFFFF reg then
      match encodeValue v w .little with
      | .error e => e.result r
      | .ok d => (ask O (.ctrlOut (half reg) (writeIndex r.state.cfg blk) d) r).andThen fun _ r => .ok () r
    else .fault .valueOutOfRange r

/-- `decode(d, LE)` of the bytes read (R65, R68). -/
def directDecode (d : Value) (r : Run) : Result Int :=
  match decodeValue d.asBytes .little with
  | .error e => e.result r
  | .ok z => .ok z r

/-- R65. -/
def directReadReg (O : Transport) (b reg w : Int) (r : Run) : Result Int :=
  match blockOf b with
  | none => .fault .valueOutOfRange r
  | some blk =>
    if inRange 0 0xFFFF reg then
      if isWidth w then (ask O (.ctrlIn (half reg) (blockId r.state.cfg blk) w.toNat) r).andThen directDecode
      else .error .unsupportedRegisterWidth r
    else .fault .valueOutOfRange r

/-- R66. -/
def directWriteRegMask (O : Transport) (b reg v m : Int) (r : Run) : Result Unit :=
  if isByte v && isByte m then
    if m = 0xFF then directWriteReg O b reg v 1 r
    else (directReadReg O b reg 1 r).andThen fun old r =>
      directWriteReg O b reg (maskMerge (byteOf old) (byteOf v) (byteOf m)).toNat 1 r
  else .fault .valueOutOfRange r

/-- R68. -/
def directReadDemodReg (O : Transport) (p a : Int) (r : Run) : Result Int :=
  if inRange 0 15 p then
    if isByte a then (ask O (.ctrlIn (demodValue a) (half p) 1) r).andThen directDecode
    else .fault .valueOutOfRange r
  else .fault .invalidPage r

/-- R67. -/
def directWriteDemodReg (O : Transport) (p a v w : Int) (r : Run) : Result Unit :=
  if inRange 0 15 p then
    if isByte a then
      match encodeValue v w .big with
      | .error e => e.result r
      | .ok d => (ask O (.ctrlOut (demodValue a) (half p ||| WRITE_FLAG) d) r).andThen fun _ r =>
        (directReadDemodReg O POLL_PAGE POLL_ADDR r).andThen fun _ r => .ok () r
    else .fault .valueOutOfRange r
  else .fault .invalidPage r

/-- R69. -/
def directOpenI2C (O : Transport) (r : Run) : Result Unit :=
  (directWriteDemodReg O REPEATER_PAGE REPEATER_ADDR REPEATER_OPEN 1 r).andThen fun _ r =>
    .ok () (r.write { r.state with i2cOpen := true })

/-- R70. -/
def directCloseI2C (O : Transport) (r : Run) : Result Unit :=
  (directWriteDemodReg O REPEATER_PAGE REPEATER_ADDR REPEATER_CLOSE 1 r).andThen fun _ r =>
    .ok () (r.write { r.state with i2cOpen := false })

/-- The transfers that write data bytes to a register of an I2C device, in either form (R72, R74). -/
def directI2CWrite (O : Transport) (dev reg : Int) (d : List Byte) (r : Run) : Result Unit :=
  match r.state.cfg.i2cWriteForm with
  | .twoPhase =>
    (ask O (i2cWrite r.state.cfg dev [byteOf reg]) r).andThen fun _ r =>
      (ask O (i2cWrite r.state.cfg dev d) r).andThen fun _ r => .ok () r
  | .combined => (ask O (i2cWrite r.state.cfg dev (byteOf reg :: d)) r).andThen fun _ r => .ok () r

/-- The transfers that read bytes from a register of an I2C device (R71, R73). -/
def directI2CRead (O : Transport) (dev reg : Int) (n : Nat) (r : Run) : Result (List Byte) :=
  (ask O (i2cWrite r.state.cfg dev [byteOf reg]) r).andThen fun _ r =>
    (ask O (i2cRead r.state.cfg dev n) r).andThen fun v r => .ok v.asBytes r

/-- R71. -/
def directReadI2CReg (O : Transport) (dev reg : Int) (r : Run) : Result Byte :=
  if isByte dev && isByte reg then
    if r.state.i2cOpen then (directI2CRead O dev reg 1 r).andThen fun d r => .ok (d.headD 0) r
    else .fault .i2cNotOpen r
  else .fault .valueOutOfRange r

/-- R72. -/
def directWriteI2CReg (O : Transport) (dev reg v : Int) (r : Run) : Result Unit :=
  if isByte dev && isByte reg && isByte v then
    if r.state.i2cOpen then directI2CWrite O dev reg [byteOf v] r
    else .fault .i2cNotOpen r
  else .fault .valueOutOfRange r

/-- R73. -/
def directReadI2CRegBuffer (O : Transport) (dev reg n : Int) (r : Run) : Result (List Byte) :=
  if isByte dev && isByte reg then
    if r.state.i2cOpen then
      if 1 ≤ n then directI2CRead O dev reg n.toNat r else .fault .invalidLength r
    else .fault .i2cNotOpen r
  else .fault .valueOutOfRange r

/-- R74. -/
def directWriteI2CRegBuffer (O : Transport) (dev reg : Int) (bs : List Byte) (r : Run) : Result Unit :=
  if isByte dev && isByte reg then
    if r.state.i2cOpen then
      if 1 ≤ bs.length then directI2CWrite O dev reg bs r else .fault .invalidLength r
    else .fault .i2cNotOpen r
  else .fault .valueOutOfRange r

/-- One record of a batch (R75). -/
def directRecord (O : Transport) (c : WriteCommand) (r : Run) : Result Unit :=
  match c with
  | .reg b a v w => directWriteReg O b a v w r
  | .regMask b a v m => directWriteRegMask O b a v m r
  | .demodReg p a v w => directWriteDemodReg O p a v w r
  | .i2cReg d a v => directWriteI2CReg O d a v r
  | .unknown tag _ => if (fieldCount tag).isSome then .fault .valueOutOfRange r else .error .unsupportedOperation r

/-- R75. -/
def directWriteEach (O : Transport) : List WriteCommand → Run → Result Unit
  | [], r => .ok () r
  | c :: cs, r => (directRecord O c r).andThen fun _ r => directWriteEach O cs r

/-- R76. -/
def directClaim (O : Transport) (r : Run) : Result Unit :=
  (ask O (.claim USB_INTERFACE) r).andThen fun _ r => .ok () (r.write { r.state with claimed := true })

/-- R77. -/
def directRelease (O : Transport) (r : Run) : Result Unit :=
  (ask O (.release USB_INTERFACE) r).andThen fun _ r => .ok () (r.write { r.state with claimed := false })

/-- R78. -/
def directReadBulk (O : Transport) (n : Int) (r : Run) : Result (List Byte) :=
  if 1 ≤ n then
    if r.state.claimed then (ask O (.bulkIn BULK_EP n.toNat) r).andThen fun v r => .ok v.asBytes r
    else .fault .interfaceNotClaimed r
  else .fault .invalidLength r

/-! ### The tuner -/

/-- R79. -/
def directTuner {α : Type} (r : Run) (k : Result α) : Result α :=
  if r.state.tunerPresent then k else .fault .tunerNotPresent r

/-- R80. -/
def directCheck (O : Transport) (r : Run) : Result Bool :=
  (directReadI2CReg O TUNER_I2C_ADDR 0x00 r).andThen fun v r => .ok (v == TUNER_CHIP_ID) r

/-- R82. -/
def directReadRegBuffer (O : Transport) (a n : Int) (r : Run) : Result (List Byte) :=
  directTuner r <|
    if inRange 0x00 0x1F a && decide (1 ≤ n) && decide (a + n ≤ 0x20) then
      (directReadI2CRegBuffer O TUNER_I2C_ADDR a n r).andThen fun d r => .ok (d.map (bitrev r.state.cfg.bitrevMode)) r
    else .fault .valueOutOfRange r

/-- R83. -/
def directMasked (O : Transport) (w : MaskedWrite) (r : Run) : Result Unit :=
  directTuner r <|
    match shadowIndex w.addr with
    | none => .fault .shadowAddressOutOfRange r
    | some i =>
      if isByte w.mask then
        match r.state.shadow[i] with
        | none => .fault .shadowUninitialised r
        | some old =>
          if r.state.i2cOpen then
            let n := maskMerge old (byteOf w.value) (byteOf w.mask)
            directWriteI2CReg O TUNER_I2C_ADDR w.addr n.toNat (r.write (setShadow r.state i n))
          else .fault .i2cNotOpen r
      else .fault .valueOutOfRange r

/-- R84, its items already resolved to masked writes. -/
def directMaskedAll (O : Transport) : List MaskedWrite → Run → Result Unit
  | [], r => .ok () r
  | w :: ws, r => (directMasked O w r).andThen fun _ r => directMaskedAll O ws r

/-- R101, one attempt: the status read and its test. -/
def directAttempt (O : Transport) (attempt : Attempt) (r : Run) : Result Bool :=
  (directReadRegBuffer O r.state.cfg.lockAddr LOCK_LEN
    (r.write { r.state with pllState := attemptState attempt })).andThen fun st r => .ok (lockBitSet st) r

/-- R101 and R102: the attempt read a set lock bit. -/
def directLocked (r : Run) : Result Bool := .ok true (r.write { r.state with hasLock := true, pllState := .locked })

/-- R101, the second attempt. -/
def directSecondAttempt (O : Transport) (r : Run) : Result Bool :=
  (directAttempt O .second r).andThen fun locked r =>
    if locked then directLocked r
    else .ok false (r.write { r.state with hasLock := false, pllState := .unlocked })

/-- R101. -/
def directGetPllLock (O : Transport) (first : Bool) (r : Run) : Result Bool :=
  directTuner r <|
    if first then
      (directAttempt O .first r).andThen fun locked r =>
        if locked then directLocked r
        else (directMasked O ⟨r.state.cfg.vcoselReg, r.state.cfg.vcoselVal, r.state.cfg.vcoselMask⟩ r).andThen
          fun _ r => directSecondAttempt O r
    else directSecondAttempt O r

/-- R92 steps 5 to 8, for an nint in range. -/
def directSynthesize (O : Transport) (mixDiv : Rat) (nint : Int) (vcoFra : Rat) (r : Run) : Result Rat :=
  let c := r.state.cfg
  let x := crystal r.state
  let sdm := sigmaDelta vcoFra x
  (directMasked O ⟨c.nisiReg, packNint nint, 0xFF⟩ r).andThen fun _ r =>
  (directMasked O ⟨c.fracReg, if vcoFra = 0 then c.fracValInt else c.fracValFrac, c.fracMask⟩ r).andThen fun _ r =>
  (directMasked O ⟨c.sdmHiReg, sdm / 256, 0xFF⟩ r).andThen fun _ r =>
  (directMasked O ⟨c.sdmLoReg, sdm % 256, 0xFF⟩ r).andThen fun _ r =>
  (directGetPllLock O true r).andThen fun _ r =>
  (directMasked O ⟨c.postlockReg, c.postlockVal, c.postlockMask⟩ r).andThen fun _ r =>
  .ok (achievedFrequency x mixDiv nint sdm) r

/-- R92 steps 4 to 8. -/
def directParameters (O : Transport) (freq : Int) (mixDiv : Rat) (r : Run) : Result Rat :=
  let nint := pllNint freq mixDiv (crystal r.state)
  if NINT_MAX < nint then .ok 0 (r.write { r.state with hasLock := false, pllState := .unlocked })
  else if nint < NINT_BASE then .fault .nintBelowRange r
  else directSynthesize O mixDiv nint (pllFraction freq mixDiv (crystal r.state)) r

/-- The divider value of step 3 (R94, R95), for the status buffer of step 2. -/
def dividerByte (c : Config) (d0 : Int) (st : List Byte) : Int :=
  (byteOf (correctDivider d0 (c.ftClass.getD (st.getD c.ftByte 0).toNat .nominal) * 2 ^ c.divShift)).toNat

/-- R92. -/
def directSetPll (O : Transport) (freq : Int) (r : Run) : Result Rat :=
  directTuner r <|
    if tunable freq then
      let c := r.state.cfg
      let d0 := dividerExponent freq
      (directMaskedAll O c.setpllPre r).andThen fun _ r =>
      (directReadRegBuffer O c.ftAddr c.ftLen r).andThen fun st r =>
      (directMasked O ⟨c.divReg, dividerByte c d0 st, c.divMask⟩ r).andThen fun _ r =>
      directParameters O freq (mixDivOf d0) r
    else .fault .frequencyOutOfRange r

/-- R90. -/
def directSetMux (O : Transport) (freq : Int) (r : Run) : Result Unit :=
  directTuner r <|
    if freq < 0 then .fault .frequencyOutOfRange r
    else
      match (muxIndex r.state.cfg.muxTable ((freq : Rat) / 1000000)).bind (r.state.cfg.muxTable[·]?) with
      | none => .fault .invalidConfiguration r
      | some e => directMaskedAll O (muxWrites r.state.cfg.muxFields e) r

/-- R91. -/
def directSetFrequency (O : Transport) (freq : Int) (r : Run) : Result Rat :=
  directTuner r <|
    if tunable freq then (directSetMux O freq r).andThen fun _ r => directSetPll O freq r
    else .fault .frequencyOutOfRange r

/-- One pass of R103. -/
def directCalibrationPass (O : Transport) (r : Run) : Result Int :=
  (directMaskedAll O r.state.cfg.calPre r).andThen fun _ r =>
  (directSetPll O CAL_FREQ r).andThen fun _ r =>
  if r.state.hasLock then
    (directMaskedAll O r.state.cfg.calPost r).andThen fun _ r =>
    (directReadRegBuffer O r.state.cfg.calAddr CAL_LEN r).andThen fun st r => .ok (calibrationCode st).toNat r
  else .error .pllNotLocked r

/-- R103. -/
def directCalibrateFilter (O : Transport) (first : Bool) (r : Run) : Result Int :=
  directTuner r <|
    (directCalibrationPass O r).andThen fun code r =>
      if code ≠ 0 ∧ first = true then directCalibrationPass O r else .ok code r

/-- R87. -/
def directInitElectronics (O : Transport) (r : Run) : Result Unit :=
  directTuner r <|
    (directMaskedAll O r.state.cfg.initElecPre r).andThen fun _ r =>
    (directCalibrateFilter O true r).andThen fun code r =>
    directMaskedAll O (r.state.cfg.initElecPost.map (resolveItem code)) r

/-- The image loop of R86, over the cells still to write. -/
def directImage (O : Transport) : List (Fin 27) → Run → Result Unit
  | [], r => .ok () r
  | i :: is, r =>
    let v := r.state.cfg.initImage.getD i 0
    (directWriteI2CReg O TUNER_I2C_ADDR (SHADOW_LO + i) v (r.write (setShadow r.state i (byteOf v)))).andThen fun _ r =>
      directImage O is r

/-- R86. -/
def directTunerInit (O : Transport) (r : Run) : Result Unit :=
  directTuner r <|
    if r.state.i2cOpen then
      (directImage O (List.finRange 27) r).andThen fun _ r => directInitElectronics O r
    else .fault .i2cNotOpen r

/-- R88. -/
def directTunerClose (O : Transport) (r : Run) : Result Unit :=
  directTuner r <| directMaskedAll O (r.state.cfg.standbyTable.map fun p => ⟨p.reg, p.value, 0xFF⟩) r

/-- R109. -/
def directSetAutoGain (O : Transport) (r : Run) : Result Unit :=
  directTuner r <| directMaskedAll O r.state.cfg.autoGainWrites r

/-- The LNA and mixer writes of R110 at a step. -/
def gainWrites (c : Config) (step : Int) : List MaskedWrite :=
  [⟨c.lnaReg, (byteOf (lnaStep step * 2 ^ c.lnaShift)).toNat, c.lnaMask⟩,
   ⟨c.mixReg, (byteOf (mixStep step * 2 ^ c.mixShift)).toNat, c.mixMask⟩]

/-- R110. -/
def directSetManualGain (O : Transport) (g : Rat) (r : Run) : Result Unit :=
  directTuner r <|
    (directMaskedAll O r.state.cfg.manualGainPre r).andThen fun _ r =>
      directMaskedAll O (gainWrites r.state.cfg (gainStep r.state.cfg g)) r

/-! ### The controller -/

/-- R112. -/
def directSession {α : Type} (want : Session) (r : Run) (k : Result α) : Result α :=
  if r.state.session = want then k else .fault .wrongSessionState r

/-- R117. -/
def directSetGainInner (O : Transport) (g : Option Rat) (r : Run) : Result Unit :=
  match g with
  | none => directSetAutoGain O r
  | some q => directSetManualGain O q r

/-- R113 after the probe has matched. -/
def directBringUp (O : Transport) (r : Run) : Result Unit :=
  (directWriteEach O (evalBatch r.state.cfg.ifWrites (ifMultiplier (crystal r.state)))
    (r.write { r.state with tunerPresent := true })).andThen fun _ r =>
  (directTunerInit O r).andThen fun _ r =>
  (directSetGainInner O r.state.gainCfg r).andThen fun _ r =>
  (directCloseI2C O r).andThen fun _ r =>
  .ok () (r.write { r.state with streamReady := false, session := .opened })

/-- R113. -/
def directOpen (O : Transport) (r : Run) : Result Unit :=
  directSession .idle r <|
    (directWriteEach O r.state.cfg.usbConfigBatch r).andThen fun _ r =>
    (directClaim O r).andThen fun _ r =>
    (directWriteEach O r.state.cfg.demodInitBatch r).andThen fun _ r =>
    (directOpenI2C O (r.write { r.state with xtalFreq := some (correctedCrystal r.state.ppm) })).andThen fun _ r =>
    (directCheck O r).andThen fun found r =>
    if found then directBringUp O r else .error .unsupportedTunerChip r

/-- R116. -/
def directSetGain (O : Transport) (g : Option Rat) (r : Run) : Result Unit :=
  directSession .opened r <|
    (directOpenI2C O r).andThen fun _ r =>
    (directSetGainInner O g r).andThen fun _ r => directCloseI2C O r

/-- R118. -/
def directSetSampleRate (O : Transport) (rate : Int) (r : Run) : Result Rat :=
  directSession .opened r <|
    if rate ≤ 0 then .fault .invalidSampleRate r
    else if sampleRatio rate = 0 then .fault .invalidSampleRate r
    else
      (directWriteEach O (evalBatch r.state.cfg.srRatioWrites (sampleRatio rate)) r).andThen fun _ r =>
      (directWriteEach O (evalBatch r.state.cfg.ppmWrites (evalFormula r.state.ppm r.state.cfg.ppmOffset)) r).andThen
        fun _ r =>
      (directWriteEach O r.state.cfg.softReset r).andThen fun _ r => .ok (achievedRate (sampleRatio rate)) r

/-- R121. -/
def directSetCenterFrequency (O : Transport) (f : Int) (r : Run) : Result Rat :=
  directSession .opened r <|
    if f + IF_FREQ ≤ 0 ∨ VCO_MIN < f + IF_FREQ then .fault .frequencyOutOfRange r
    else
      (directOpenI2C O r).andThen fun _ r =>
      (directSetFrequency O (f + IF_FREQ) r).andThen fun actual r =>
      (directCloseI2C O r).andThen fun _ r => .ok (actual - (IF_FREQ : Rat)) r

/-- R122. -/
def directResetBuffer (O : Transport) (r : Run) : Result Unit :=
  directSession .opened r <|
    (directWriteEach O r.state.cfg.epaReset r).andThen fun _ r => .ok () (r.write { r.state with streamReady := true })

/-- R123, without its handler, which `Result.outcome` has. -/
def directReadSamples (O : Transport) (count : Int) (r : Run) : Result (List Byte) :=
  directSession .opened r <|
    if count < 1 then .fault .invalidLength r
    else if r.state.streamReady then directReadBulk O (2 * count) r
    else .fault .streamNotReset r

/-- R125. -/
def directClose (O : Transport) (r : Run) : Result Unit :=
  directSession .opened r <|
    (directOpenI2C O r).andThen fun _ r =>
    (directTunerClose O r).andThen fun _ r =>
    (directCloseI2C O r).andThen fun _ r =>
    (directRelease O r).andThen fun _ r =>
    .ok () (r.write { r.state with streamReady := false, session := .closed })

/-! ### Commands -/

/-- The value of an operation that returns nothing. -/
def unitValue (_ : Unit) : Value := .unit

/-- The operation a command or a record stands for, run to its end, with the result its port answers (R57). -/
def direct (O : Transport) (i : Instr) (r : Run) : Result Value :=
  match i with
  | .writeReg b a v w => (directWriteReg O b a v w r).map unitValue
  | .readReg b a w => (directReadReg O b a w r).map Value.int
  | .writeRegMask b a v m => (directWriteRegMask O b a v m r).map unitValue
  | .writeDemodReg p a v w => (directWriteDemodReg O p a v w r).map unitValue
  | .readDemodReg p a => (directReadDemodReg O p a r).map Value.int
  | .openI2C => (directOpenI2C O r).map unitValue
  | .closeI2C => (directCloseI2C O r).map unitValue
  | .readI2CReg d a => (directReadI2CReg O d a r).map Value.byte
  | .writeI2CReg d a v => (directWriteI2CReg O d a v r).map unitValue
  | .readI2CRegBuffer d a n => (directReadI2CRegBuffer O d a n r).map Value.bytes
  | .writeI2CRegBuffer d a bs => (directWriteI2CRegBuffer O d a bs r).map unitValue
  | .writeEach cs => (directWriteEach O cs r).map unitValue
  | .claimInterface => (directClaim O r).map unitValue
  | .releaseInterface => (directRelease O r).map unitValue
  | .readBulk n => (directReadBulk O n r).map Value.bytes
  | .tunerCheck => (directCheck O r).map Value.bool
  | .tunerInit => (directTunerInit O r).map unitValue
  | .tunerInitElectronics => (directInitElectronics O r).map unitValue
  | .tunerSetFrequency f => (directSetFrequency O f r).map Value.rat
  | .tunerSetMux f => (directSetMux O f r).map unitValue
  | .tunerSetPll f => (directSetPll O f r).map Value.rat
  | .tunerGetPllLock b => (directGetPllLock O b r).map Value.bool
  | .tunerCalibrateFilter b => (directCalibrateFilter O b r).map Value.int
  | .tunerSetAutoGain => (directSetAutoGain O r).map unitValue
  | .tunerSetManualGain g => (directSetManualGain O g r).map unitValue
  | .tunerReadRegBuffer a n => (directReadRegBuffer O a n r).map Value.bytes
  | .tunerWriteRegMask a v m => (directMasked O ⟨a, v, m⟩ r).map unitValue
  | .tunerClose => (directTunerClose O r).map unitValue
  | .controllerOpen => (directOpen O r).map unitValue
  | .setSampleRate f => (directSetSampleRate O f r).map Value.rat
  | .setCenterFrequency f => (directSetCenterFrequency O f r).map Value.rat
  | .setGain g => (directSetGain O g r).map unitValue
  | .resetBuffer => (directResetBuffer O r).map unitValue
  | .readSamples n => (directReadSamples O n r).map Value.bytes
  | .controllerClose => (directClose O r).map unitValue
  | .wcReg b a v w => (directRecord O (.reg b a v w) r).map unitValue
  | .wcRegMask b a v m => (directRecord O (.regMask b a v m) r).map unitValue
  | .wcDemodReg p a v w => (directRecord O (.demodReg p a v w) r).map unitValue
  | .wcI2CReg d a v => (directRecord O (.i2cReg d a v) r).map unitValue

/-! ### What the machine must do -/

/-- Whether a command is `readSamples`, whose bulk failure is handled (R133). -/
def isReadSamples : Instr → Bool
  | .readSamples _ => true
  | _ => false

/-- Whether an instruction is one of the seven external commands (R57, R138). -/
def isExternal : Instr → Bool
  | .controllerOpen | .setSampleRate _ | .setCenterFrequency _ | .setGain _ | .resetBuffer | .readSamples _
  | .controllerClose => true
  | _ => false

/-- The block takes instruction `i` from `s`: an external command as R112 says, an internal one as R138 says, a record
as the last of a batch. -/
def Accepts (i : Instr) (s : State) : Prop :=
  if i.isBatchRecord then ReadyRecord s else if isExternal i then Ready s else ReadyInternal s

/-- The block after a command has answered `ok(v)` (R60), with the answers the transport has yet to give. -/
def Run.answered (r : Run) (v : Value) (rest : List Answer) : State :=
  { r.state with
    answers := rest, frames := [], latch := .unit, inflight := none, responses := r.state.responses ++ [.ok v] }

/-- The block after an error has left a command (R23 c, R132, R133, R134). -/
def Run.failed (r : Run) (i : Instr) (e : Error) (rest : List Answer) : State :=
  let handled := isBulkFailure e && isReadSamples i
  { r.state with
    answers := rest, frames := [], latch := .unit, inflight := none, responses := r.state.responses ++ [.err e]
    session := if handled then r.state.session else .failed
    streamReady := false }

/-- The end of a command: its answer, its error, or a model fault. -/
def Result.outcome (i : Instr) (rest : List Answer) : Result Value → Host.Outcome State Fault Refusal
  | .ok v r => .next (r.answered v rest)
  | .error e r => .next (r.failed i e rest)
  | .fault f _ => .fault f

/-- The answers the transport gave a command, however it ended. -/
def Result.answers {α : Type} : Result α → List Answer
  | .ok _ r => r.answers
  | .error _ r => r.answers
  | .fault _ r => r.answers

/-- The first step's outcome `o` leads to the end `e`: it is the end, or it is a next state from which some number
of steps ends so. -/
def Reaches (o e : Host.Outcome State Fault Refusal) : Prop :=
  o = e ∨ ∃ t k, o = .next t ∧ Sys2Proof.core.run k t = e

/-- The machine runs instruction `i` from `s` as its direct style does: where the transport gives the answers of the
direct run, then any others, the command ends in the direct run's end. -/
def Follows (O : Transport) (i : Instr) (s : State) : Prop :=
  ∀ rest, let x := direct O i (Run.start s)
    Reaches (exec i { s with answers := x.answers ++ rest }) (x.outcome i rest)

/-- Instruction `i` completes from `s` with the value `v`, leaving the block as in `u`: where the transport gives the
answers `as`, then any others, `exec` answers a next state, from which some number of steps ends in the answer
`ok(v)` with no command in progress. All that differs from `u` is said here. -/
def Completes (i : Instr) (s : State) (as : List Answer) (v : Value) (u : State) : Prop :=
  ∀ rest, ∃ t k, exec i { s with answers := as ++ rest } = .next t
    ∧ Sys2Proof.core.run k t = .next ((⟨u, as⟩ : Run).answered v rest)

/-- Nothing but the record of primitives differs: the frame of the RegisterBus operations that write no state. -/
def SameButTrace (s t : State) : Prop := t = { s with trace := t.trace }

/-- Nothing but the shadow bank, the lock flag, the tuning state and the record of primitives differs: the frame of the
tuner operations. -/
def SameButTuning (s t : State) : Prop :=
  t = { s with shadow := t.shadow, hasLock := t.hasLock, pllState := t.pllState, trace := t.trace }

/-- Nothing but the shadow bank and the record of primitives differs: the frame of the masked writes. -/
def SameButShadow (s t : State) : Prop := t = { s with shadow := t.shadow, trace := t.trace }

/-- Instruction `i` completes from `s` under the transport `O` as its direct style says, with a value and a final state
that satisfy `P`. -/
def Succeeds (O : Transport) (i : Instr) (s : State) (P : Value → State → Prop) : Prop :=
  ∃ v r, direct O i (Run.start s) = .ok v r ∧ P v r.state ∧ Completes i s r.answers v r.state

/-- A command whose answers are those of `O` ends in the error `e`, in the block state `P` admits. -/
def EndsInError (O : Transport) (i : Instr) (s : State) (e : Error) (P : State → Prop) : Prop :=
  ∃ r, direct O i (Run.start s) = .error e r ∧ P (r.failed i e []) ∧
    ∀ rest, Reaches (exec i { s with answers := r.answers ++ rest }) (.next (r.failed i e rest))

/-- A command whose answers are those of `O` ends in the model fault `f`. -/
def EndsInFault (O : Transport) (i : Instr) (s : State) (f : Fault) : Prop :=
  ∃ r, direct O i (Run.start s) = .fault f r ∧
    ∀ rest, Reaches (exec i { s with answers := r.answers ++ rest }) (.fault f)

/-! ### What the operations write -/

/-- The primitives that write data bytes to a register of an I2C device (R72, R74). -/
def i2cWritePrims (c : Config) (dev reg : Int) (d : List Byte) : List Primitive :=
  match c.i2cWriteForm with
  | .twoPhase => [i2cWrite c dev [byteOf reg], i2cWrite c dev d]
  | .combined => [i2cWrite c dev (byteOf reg :: d)]

/-- The primitives that read bytes from a register of an I2C device (R71, R73). -/
def i2cReadPrims (c : Config) (dev reg : Int) (n : Nat) : List Primitive :=
  [i2cWrite c dev [byteOf reg], i2cRead c dev n]

/-- The primitives of a demodulator write and its poll (R67). -/
def demodWritePrims (p a : Int) (d : List Byte) : List Primitive :=
  [.ctrlOut (demodValue a) (half p ||| WRITE_FLAG) d, .ctrlIn (demodValue POLL_ADDR) (half POLL_PAGE) 1]

/-- Every answer is ok. -/
def AllOk (as : List Answer) : Prop := ∀ a ∈ as, ∃ d, a = .ok d

/-- A batch whose every record is in range and can run: an I2C record needs the repeater open (R75, R71). -/
def batchRuns (i2c : Bool) (cs : List WriteCommand) : Bool :=
  cs.all fun c => c.wellFormed &&
    match c with
    | .i2cReg _ _ _ => i2c
    | .unknown _ _ => false
    | _ => true

/-- The tuner is present and reachable and its shadow bank is filled: a tuner operation can run (R79). -/
def TunerReady (s : State) : Prop := TunerReachable s ∧ ShadowReady s

/-- The transport answers every primitive, with the number of bytes asked for (R37). -/
def Faithful (O : Transport) : Prop := ∀ k p, ∃ v, primitiveResult p (O k p) = .ok v

end Sys2Proof.Machine
end

