-- ==== Sys2Proof/Safety/Device.lean ====
section
/-! DEFINITION. The optional device model (R38): the tuner as far as the block's own transfers show it. It holds in each
writable register the last byte written there, and a read of the register returns that byte, which narrows the answers of
the transport (R37). The statements about the shadow bank (R21) use it; no rule of the block does. -/

namespace Sys2Proof.Machine

/-- The tuner's register index, where a transfer has selected one and the data has not come, and the writable registers
0x05..0x1F; `none` is an unknown byte (R146). -/
structure Tuner where
  selected : Option Byte
  regs : Vector (Option Byte) 27

/-- A byte stored in a register; a register outside 0x05..0x1F is not followed. -/
def Tuner.store (d : Tuner) (a v : Byte) : Tuner :=
  match shadowIndex a.toNat with
  | some i => { selected := none, regs := d.regs.set i (some v) }
  | none => { d with selected := none }

/-- A transfer the model does not follow leaves every register unknown. -/
def Tuner.lost : Tuner := { selected := none, regs := Vector.replicate 27 none }

/-- The bytes of one write transfer to the tuner (R32): in the two-phase form an index byte, then the data of that
register; in the combined form an index byte alone, or an index byte and its data. -/
def Tuner.receive (c : Config) (d : Tuner) (bytes : List Byte) : Tuner :=
  match c.i2cWriteForm, d.selected, bytes with
  | .twoPhase, none, [a] => { d with selected := some a }
  | .twoPhase, some a, [v] => d.store a v
  | .combined, _, [a] => { d with selected := some a }
  | .combined, _, [a, v] => d.store a v
  | _, _, _ => Tuner.lost

/-- One primitive of the block, as the tuner sees it (R32). -/
def Tuner.take (c : Config) (d : Tuner) (p : Primitive) : Tuner :=
  match p with
  | .ctrlOut v i bytes => if v = half TUNER_I2C_ADDR ∧ i = writeIndex c .i2c then d.receive c bytes else d
  | .ctrlIn v i _ => if v = half TUNER_I2C_ADDR ∧ i = blockId c .i2c then { d with selected := none } else d
  | .bulkIn _ _ | .claim _ | .release _ => d

/-- The last byte written to register `a`, where it is known. -/
def Tuner.byteAt (d : Tuner) (a : Nat) : Option Byte := (shadowIndex a).bind fun i => d.regs[i]

/-- The bytes of a read that starts at register `a`, from bytes the transport would give: a register whose last written
byte is known gives that byte (R38), and any other what the transport gives. -/
def Tuner.readBack (d : Tuner) (a : Nat) : List Byte → List Byte
  | [] => []
  | b :: bs => (d.byteAt a).getD b :: d.readBack (a + 1) bs

/-- The answer to a primitive, from one the transport would give: a read of the tuner starts at the selected register
(R32, R38). -/
def Tuner.reply (c : Config) (d : Tuner) (p : Primitive) (ans : Answer) : Answer :=
  match p, d.selected, ans with
  | .ctrlIn v i _, some a, .ok bytes =>
    if v = half TUNER_I2C_ADDR ∧ i = blockId c .i2c then .ok (d.readBack a.toNat bytes) else ans
  | _, _, _ => ans

/-- The narrowed oracle (R38): the answers of a run are ones the tuner gives, each from the registers it has then. -/
def Tuner.Replies (c : Config) (d : Tuner) : List Primitive → List Answer → Prop
  | p :: ps, ans :: rest => d.reply c p ans = ans ∧ (d.take c p).Replies c ps rest
  | [], _ => True
  | _ :: _, [] => True

/-- The tuner after a sequence of primitives. -/
def Tuner.after (c : Config) (d : Tuner) (ps : List Primitive) : Tuner := ps.foldl (Tuner.take c) d

/-- The shadow bank equals the tuner's registers, and no index is selected (R21). -/
def Mirrors (d : Tuner) (s : State) : Prop := d.selected = none ∧ d.regs = s.shadow

/-- Every record of a batch is a demodulator write. -/
def allDemod (cs : List WriteCommand) : Bool :=
  cs.all fun c =>
    match c with
    | .demodReg _ _ _ _ => true
    | _ => false

end Sys2Proof.Machine
end

