-- ==== Sys2Proof/Safety/Tuning.lean ====
section
/-! DEFINITION. The tuning operations in closed form. For a transport, and the index of an operation's first primitive in
its command, they give the masked writes the operation makes, whether it ends locked, how many primitives it issues, and
each status buffer at the exact index of its read. -/

namespace Sys2Proof.Machine

/-! ### The shadow bank -/

/-- The shadow bank after one masked write (R83). A cell that holds `undef` is not written. -/
def maskCell (bank : Vector (Option Byte) 27) (w : MaskedWrite) : Vector (Option Byte) 27 :=
  match shadowIndex w.addr with
  | none => bank
  | some i =>
    match bank[i] with
    | none => bank
    | some old => bank.set i (some (maskMerge old (byteOf w.value) (byteOf w.mask)))

/-- The shadow bank after a list of masked writes (R84). -/
def maskCells (bank : Vector (Option Byte) 27) (ws : List MaskedWrite) : Vector (Option Byte) 27 := ws.foldl maskCell bank

/-- The shadow bank after the image of `tuner.init` (R86). -/
def imageCells (c : Config) : Vector (Option Byte) 27 := Vector.ofFn fun i => some (byteOf (c.initImage.getD i 0))

/-- The masked writes of a gain setting (R109, R110, R117). -/
def gainSettingWrites (c : Config) (g : Option Rat) : List MaskedWrite :=
  match g with
  | none => c.autoGainWrites
  | some q => c.manualGainPre ++ gainWrites c (gainStep c q)

/-! ### One synthesis -/

/-- The masked writes of `setPll` up to step 3 (R92), for the status buffer of step 2. -/
def pllDividerWrites (c : Config) (freq : Int) (st : List Byte) : List MaskedWrite :=
  c.setpllPre ++ [⟨c.divReg, dividerByte c (dividerExponent freq) st, c.divMask⟩]

/-- The integer divisor of `setPll` (R95). -/
def nintOf (freq : Int) (x : Rat) : Int := pllNint freq (mixDivOf (dividerExponent freq)) x

/-- The remainder of `setPll` (R95). -/
def vcoFraOf (freq : Int) (x : Rat) : Rat := pllFraction freq (mixDivOf (dividerExponent freq)) x

/-- The sigma-delta word of `setPll` (R98). -/
def sdmOf (freq : Int) (x : Rat) : Int := sigmaDelta (vcoFraOf freq x) x

/-- The frequency `setPll` achieves (R99). -/
def achievedOf (freq : Int) (x : Rat) : Rat :=
  achievedFrequency x (mixDivOf (dividerExponent freq)) (nintOf freq x) (sdmOf freq x)

/-- The masked writes of `setPll` from step 5 on (R92), with the nudge of the second lock attempt where it is made. -/
def pllSynthesisWrites (c : Config) (freq : Int) (x : Rat) (nudged : Bool) : List MaskedWrite :=
  [⟨c.nisiReg, packNint (nintOf freq x), 0xFF⟩,
   ⟨c.fracReg, if vcoFraOf freq x = 0 then c.fracValInt else c.fracValFrac, c.fracMask⟩,
   ⟨c.sdmHiReg, sdmOf freq x / 256, 0xFF⟩, ⟨c.sdmLoReg, sdmOf freq x % 256, 0xFF⟩]
  ++ (if nudged then [⟨c.vcoselReg, c.vcoselVal, c.vcoselMask⟩] else [])
  ++ [⟨c.postlockReg, c.postlockVal, c.postlockMask⟩]

/-- The integer divisor is one that the tuner encodes (R96). -/
def synthesizable (freq : Int) (x : Rat) : Bool := decide (NINT_BASE ≤ nintOf freq x) && decide (nintOf freq x ≤ NINT_MAX)

/-- What a tuning operation does: its masked writes in order, whether it ends locked, and the number of its primitives. -/
structure Tuning where
  writes : List MaskedWrite
  locked : Bool
  count : Nat
  deriving DecidableEq, Repr

/-- `W`, the number of primitives of a register write through the I2C proxy (R157). -/
def writeCount (c : Config) : Nat :=
  match c.i2cWriteForm with
  | .twoPhase => 2
  | .combined => 1

/-- The buffer of a tuner status read of `n` bytes whose data transfer is primitive `k` of the command, its bytes reversed
(R82). -/
def statusAt (O : Transport) (c : Config) (n k : Nat) : List Byte :=
  match O k (i2cRead c TUNER_I2C_ADDR n) with
  | .ok raw => raw.map (bitrev c.bitrevMode)
  | .fail _ => []

/-- `setPll` whose first primitive is primitive `k` (R92, R96, R101, R157): the status read of step 2 follows
`SETPLL_PRE`; the first lock read follows the divider write and the four writes of steps 5 and 6; where it is clear, the
nudge and the second lock read follow it. -/
def pllTuning (O : Transport) (c : Config) (freq : Int) (x : Rat) (k : Nat) : Tuning :=
  let W := writeCount c
  let p := c.setpllPre.length
  let divider := pllDividerWrites c freq (statusAt O c c.ftLen (k + W * p + 1))
  if NINT_MAX < nintOf freq x then ⟨divider, false, W * (p + 1) + 2⟩
  else if lockBitSet (statusAt O c LOCK_LEN (k + W * (p + 5) + 3)) then
    ⟨divider ++ pllSynthesisWrites c freq x false, true, W * (p + 6) + 4⟩
  else
    ⟨divider ++ pllSynthesisWrites c freq x true, lockBitSet (statusAt O c LOCK_LEN (k + W * (p + 6) + 5)),
      W * (p + 7) + 6⟩

/-- The masked writes of `setMux` at a frequency (R89, R90). -/
def muxTuningWrites (c : Config) (freq : Int) : List MaskedWrite :=
  match (muxIndex c.muxTable ((freq : Rat) / 1000000)).bind (c.muxTable[·]?) with
  | none => []
  | some e => muxWrites c.muxFields e

/-- `setFrequency` whose first primitive is primitive `k` (R91): four writes, then the synthesis. -/
def retuning (O : Transport) (c : Config) (freq : Int) (x : Rat) (k : Nat) : Tuning :=
  let t := pllTuning O c freq x (k + 4 * writeCount c)
  { t with writes := muxTuningWrites c freq ++ t.writes, count := 4 * writeCount c + t.count }

/-! ### Calibration -/

/-- What a calibration does, and the status buffer whose code it returns. -/
structure Calibration extends Tuning where
  status : List Byte
  deriving DecidableEq, Repr

/-- The code a calibration returns (R103). -/
def Calibration.code (a : Calibration) : Int := (calibrationCode a.status).toNat

/-- One pass of `calibrateFilter` whose first primitive is primitive `k` (R103, R157). One that does not lock ends after
its synthesis. -/
def calibrationPass (O : Transport) (c : Config) (x : Rat) (k : Nat) : Calibration :=
  let W := writeCount c
  let t := pllTuning O c CAL_FREQ x (k + W * c.calPre.length)
  let n := W * c.calPre.length + t.count + W * c.calPost.length
  { writes := c.calPre ++ t.writes ++ c.calPost, locked := t.locked, count := n + 2, status := statusAt O c CAL_LEN (k + n + 1) }

/-- `calibrateFilter` whose first primitive is primitive `k` (R103): one pass, or two where `first` is true and the first
pass locks and reads a code other than 0; it returns the code of the last pass it makes. -/
def calibration (O : Transport) (c : Config) (x : Rat) (first : Bool) (k : Nat) : Calibration :=
  let one := calibrationPass O c x k
  if one.locked = true ∧ one.code ≠ 0 ∧ first = true then
    let two := calibrationPass O c x (k + one.count)
    { two with writes := one.writes ++ two.writes, count := one.count + two.count }
  else one

/-- `initElectronics` whose first primitive is primitive `k` (R87): the code of its calibration is folded into
`INIT_ELEC_POST`. -/
def electronics (O : Transport) (c : Config) (x : Rat) (k : Nat) : Calibration :=
  let W := writeCount c
  let a := calibration O c x true (k + W * c.initElecPre.length)
  { a with
    writes := c.initElecPre ++ a.writes ++ c.initElecPost.map (resolveItem a.code)
    count := W * c.initElecPre.length + a.count + W * c.initElecPost.length }

/-! ### Bring-up -/

/-- The number of primitives of one record of a batch (R75, R157). -/
def recordCount (c : Config) : WriteCommand → Nat
  | .reg _ _ _ _ => 1
  | .regMask _ _ _ m => if m = 0xFF then 1 else 2
  | .demodReg _ _ _ _ => 2
  | .i2cReg _ _ _ => writeCount c
  | .unknown _ _ => 0

/-- The number of primitives of a batch. -/
def batchCount (c : Config) (cs : List WriteCommand) : Nat := (cs.map (recordCount c)).sum

/-- The index in `open` of the transfer that reads the chip id (R113): the two batches, the claim, the two primitives of
`openI2C` and the register select come before it. -/
def chipIndex (c : Config) : Nat := batchCount c c.usbConfigBatch + 1 + batchCount c c.demodInitBatch + 3

/-- The index in `open` of the first primitive of `initElectronics` (R86, R113): the IF batch and the image of 27
registers follow the chip id. -/
def electronicsIndex (c : Config) (ppm : Int) : Nat :=
  chipIndex c + 1 + batchCount c (evalBatch c.ifWrites (ifMultiplier (correctedCrystal ppm))) + 27 * writeCount c

/-- The transport answers primitive `k`, a read of one byte from the tuner, with `b`. -/
def ChipReads (O : Transport) (c : Config) (k : Nat) (b : Byte) : Prop := O k (i2cRead c TUNER_I2C_ADDR 1) = .ok [b]

end Sys2Proof.Machine
end

