-- ==== Sys2Proof/Certificates/Slice0/Obligations.lean ====
section
/-! DEFINITION. The statements for the provers. A statement about a command quantifies over the answers of the
transport, over whatever answers follow them, and over every state that takes the command. -/

open Sys2Proof Sys2Proof.Machine

/-! ### Encoding, and what a step runs -/

/-- R50, R51, R57: every well-formed instruction is read back from its record, every operand at every value of its
range. -/
def Obligations.DecodeInvertsEncode : Prop :=
  ∀ i : Instr, i.wellFormed = true → decode (encode i) = .instr i

/-- R51, R57: a record that is read as an instruction is that instruction's record, once its operands are in the types R57
gives them, and it is read so with those operands too. So two records mean the same only where they hold the same values.
That a value's type does not matter is the model's reading (log entry 28). -/
def Obligations.EncodeInvertsDecode : Prop :=
  ∀ (f : Form) (i : Instr), decode f = .instr i → encode i = f.canonical ∧ decode f.canonical = .instr i

/-- R59: every opcode outside the table is reserved, whatever its operands; a record with a reserved opcode faults
before any traffic. -/
def Obligations.ReservedOpcodes : Prop :=
  (∀ r : Record, decodeCmd r = .reserved ↔
    ¬ (inRange 0x01 0x0F r.opcode.toNat = true ∨ inRange 0x20 0x2C r.opcode.toNat = true
      ∨ inRange 0x40 0x46 r.opcode.toNat = true)) ∧
  (∀ (s : State) (r : Record) (rest : List Record), Ready s → s.commands = r :: rest → decodeCmd r = .reserved →
    step s = .fault .unknownCommand)

/-- R51, R57: records written out from the tables, one or two for each family; a bool written as 0 or 1 (R101), and an
integer where a rational stands (R58, log entry 28). -/
def Obligations.DecodeWords : Prop :=
  decode (.cmd ⟨0x01, [.int 1, .int 0x2148, .int 0x0210, .int 2]⟩) = .instr (.writeReg 1 0x2148 0x0210 2) ∧
  decode (.cmd ⟨0x09, [.int 0x34, .int 0x10, .int 0xA0]⟩) = .instr (.writeI2CReg 0x34 0x10 0xA0) ∧
  decode (.cmd ⟨0x25, [.int 56000000]⟩) = .instr (.tunerSetPll 56000000) ∧
  decode (.cmd ⟨0x2B, [.int 0x10, .int 0x80, .int 0xE0]⟩) = .instr (.tunerWriteRegMask 0x10 0x80 0xE0) ∧
  decode (.cmd ⟨0x43, [.absent]⟩) = .instr (.setGain none) ∧
  decode (.cmd ⟨0x45, [.int 2]⟩) = .instr (.readSamples 2) ∧
  decode (.wc ⟨0x02, [1, 0x9F, 0x0399, 2]⟩) = .instr (.wcDemodReg 1 0x9F 0x0399 2) ∧
  decode (.cmd ⟨0x26, [.int 0]⟩) = .instr (.tunerGetPllLock false) ∧
  decode (.cmd ⟨0x26, [.int 1]⟩) = .instr (.tunerGetPllLock true) ∧
  decode (.cmd ⟨0x27, [.int 1]⟩) = .instr (.tunerCalibrateFilter true) ∧
  decode (.cmd ⟨0x29, [.int 7]⟩) = .instr (.tunerSetManualGain 7) ∧
  decode (.wc ⟨0x04, [0]⟩) = .reserved

/-- R6, R26, R45, R75: a step of an idle block runs the command its port holds; a step at the head of a batch runs the
record there; a step at another statement goes on with the operation in progress; an idle block with no command waits;
a record whose operands are not of the number and types of R57 faults, as its permission, its session and its operands
are checked in the order of R135. The wait, and that such a record is out of range, are the model's (log entries 5
and 7). -/
def Obligations.StepRunsDecoded : Prop :=
  (∀ (s : State) (r : Record) (rest : List Record) (i : Instr), Ready s → s.commands = r :: rest →
    decode (.cmd r) = .instr i → step s = exec i { s with commands := rest }) ∧
  (∀ (s : State) (r : WCRecord) (cs : List WriteCommand) (fs : List Frame) (i : Instr),
    configured s = true → s.inflight = none → s.frames = .writeEachNext (decodeWC r :: cs) :: fs →
    decode (.wc r) = .instr i → step s = exec i { s with frames := .writeEachNext cs :: fs }) ∧
  (∀ (s : State) (f : Frame) (fs : List Frame), configured s = true → s.inflight = none → s.frames = f :: fs →
    (∀ c cs, f ≠ .writeEachNext (c :: cs)) → step s = advance s) ∧
  (∀ s : State, Ready s → s.commands = [] → step s = .next s) ∧
  (∀ (s : State) (r : Record) (rest : List Record), Ready s → s.commands = r :: rest → decode (.cmd r) = .malformed →
    step s = .fault
      (if r.opcode.toNat < 0x40 then
        if s.cfg.testPort = true ∧ (s.session = .idle ∨ s.session = .opened) then .valueOutOfRange else .notPermitted
      else if s.session = (if r.opcode = 0x40 then .idle else .opened) then .valueOutOfRange else .wrongSessionState))

/-! ### State -/

/-- R145, R147: every persistent item after construction. -/
def Obligations.ResetState : Prop :=
  ∀ (c : Config) (ppm : Int) (g : Option Rat), let s := State.construct c ppm g
    s.session = .idle ∧ s.claimed = false ∧ s.i2cOpen = false ∧ s.tunerPresent = false ∧ s.hasLock = false
    ∧ s.streamReady = false ∧ s.pllState = .unlocked ∧ (∀ i : Fin 27, s.shadow[i] = none) ∧ s.xtalFreq = none
    ∧ s.inflight = none ∧ s.frames = [] ∧ s.ppm = ppm ∧ s.gainCfg = g

/-- The invariant holds after construction with any configuration, and so at `State.reset`. -/
def Obligations.ResetMeetsInvariant : Prop :=
  (∀ (c : Config) (ppm : Int) (g : Option Rat), (State.construct c ppm g).inv = true) ∧ State.reset.inv = true

/-- Every step keeps the invariant: the frame stack is a chain of calls, the session is the one the command in progress
has checked, the lock flag agrees with the tuning state outside an attempt (R22), the crystal frequency is set where an
operation reads it (R24, R92), and nothing is in flight between steps (R6). -/
def Obligations.StepKeepsInvariant : Prop :=
  ∀ s t : State, s.inv = true → step s = .next t → t.inv = true

/-- R16, R26: the frame stack holds at most 8 frames. -/
def Obligations.StackHoldsEightFrames : Prop := ∀ s : State, s.inv = true → s.frames.length ≤ 8

/-- R19, R148: a step leaves the session where it is or moves it along an arc; in a terminal session a step that goes on
changes nothing. -/
def Obligations.SessionArcs : Prop :=
  ∀ s t : State, s.inv = true → step s = .next t →
    (t.session = s.session ∨ sessionArc s.session t.session = true) ∧
    (s.session = .closed ∨ s.session = .failed → t = s)

/-- R147, R8, R48: no step changes the configuration or its inputs; a block with an ill-formed configuration faults
before any command. What R85 requires of a batch is counted as well-formedness (log entry 27). -/
def Obligations.ConfigurationFixed : Prop :=
  (∀ s t : State, step s = .next t → t.cfg = s.cfg ∧ t.ppm = s.ppm ∧ t.gainCfg = s.gainCfg) ∧
  (∀ s : State, Config.wellFormed s.cfg = false → step s = .fault .invalidConfiguration)

/-- R6, R14, R60: a step issues at most one primitive and takes its answer; it answers the command port at most once,
and only as the command ends; it takes at most one command. The ports as lists are the model's (log entries 4, 5, 15). -/
def Obligations.OnePrimitivePerStep : Prop :=
  ∀ s t : State, s.inflight = none → step s = .next t →
    t.inflight = none ∧
    (t.trace = s.trace ∧ t.answers = s.answers ∨ ∃ p, t.trace = s.trace ++ [p] ∧ t.answers = s.answers.tail) ∧
    (t.responses = s.responses ∨ ∃ a, t.responses = s.responses ++ [a] ∧ t.frames = []) ∧
    (t.commands = s.commands ∨ s.frames = [] ∧ ∃ r, s.commands = r :: t.commands)

/-- R20, R49: a shadow cell that holds a byte never returns to `undef`. -/
def Obligations.ShadowStaysDefined : Prop :=
  ∀ (s t : State) (i : Fin 27), step s = .next t → s.shadow[i].isSome = true → t.shadow[i].isSome = true

/-- R21, R85: under the device model, the shadow bank equals the tuner's registers after every tuner operation, retune
and gain command that completes, if it did before; after `tuner.init` and after `open` it does whatever the tuner held
before. No batch of an admissible configuration writes the tuner with an I2CReg record, past the shadow bank (log entry
27). R38: a read of the tuner returns, for each shadowed register it covers, the byte in the shadow cell, and leaves the
two equal (log entry 26). -/
def Obligations.ShadowMirrorsTuner : Prop :=
  (∀ (O : Transport) (i : Instr) (s : State) (v : Value) (r : Run) (d : Tuner),
    direct O i (Run.start s) = .ok v r → configured s = true →
    ∃ ps, r.state.trace = s.trace ++ ps ∧
      ((∀ f g b a x m, i ∈ ([.tunerCheck, .tunerInitElectronics, .tunerSetFrequency f, .tunerSetMux f, .tunerSetPll f,
          .tunerGetPllLock b, .tunerCalibrateFilter b, .tunerSetAutoGain, .tunerSetManualGain g,
          .tunerReadRegBuffer a x, .tunerWriteRegMask a x m, .tunerClose, .setCenterFrequency f, .setGain (some g),
          .setGain none, .controllerClose] : List Instr) → Mirrors d s → Mirrors (d.after s.cfg ps) r.state) ∧
        (i = .tunerInit → d.selected = none → Mirrors (d.after s.cfg ps) r.state) ∧
        (i = .controllerOpen → allDemod (evalBatch s.cfg.ifWrites (ifMultiplier (correctedCrystal s.ppm))) = true →
          Mirrors (d.after s.cfg ps) r.state))) ∧
  (∀ (c : Config) (x a v : Int), Config.wellFormed c = true → ∀ cs ∈ [c.usbConfigBatch, c.demodInitBatch, c.softReset,
    c.epaReset, evalBatch c.ifWrites x, evalBatch c.srRatioWrites x, evalBatch c.ppmWrites x],
    WriteCommand.i2cReg 0x34 a v ∉ cs) ∧
  (∀ (s : State) (d : Tuner) (a n : Int) (x raw : List Byte), ReadyInternal s → s.i2cOpen = true → Mirrors d s →
    inRange 0 0xFF a = true → 1 ≤ n → raw.length = n.toNat →
    d.Replies s.cfg (i2cReadPrims s.cfg 0x34 a n.toNat) [.ok x, .ok raw] →
    Completes (.readI2CRegBuffer 0x34 a n) s [.ok x, .ok raw] (.bytes raw)
        { s with trace := s.trace ++ i2cReadPrims s.cfg 0x34 a n.toNat } ∧
      (∀ (j : Nat) (i : Fin 27) (b : Byte), j < n.toNat → shadowIndex (a + j) = some i → s.shadow[i] = some b →
        raw[j]? = some b) ∧
      Mirrors (d.after s.cfg (i2cReadPrims s.cfg 0x34 a n.toNat)) s)

/-! ### The machine and the direct style -/

/-- R6, R15, R26, R132, R133, R134: for every instruction, every transport and every state that takes the instruction,
the machine, which suspends at each primitive, ends as the direct style of the instruction's rule does: with the same
answer or the same error, in the same state, or with the same fault. -/
def Obligations.MachineFollowsDirectStyle : Prop :=
  ∀ (O : Transport) (i : Instr) (s : State), Accepts i s → Follows O i s

/-- R63, R23, R132, R134: a primitive that the transport fails, or a read whose answer has the wrong length, ends the command
in the step that issued it, with nothing issued after it. The error carries the direction, the address and the cause: the
transport's own, or `ShortTransfer`. The frames are popped, the port answers the error, and every failure but a bulk read's
makes the session FAILED. The stream is no longer ready: of a failure that is no bulk read's, that is the model's reading of
R23 (log entry 12). -/
def Obligations.FailedTransferEndsCommand : Prop :=
  ∀ (s t : State) (p : Primitive) (c : Cause), s.inflight = none → step s = .next t → t.trace = s.trace ++ [p] →
    ((∃ n, nextAnswer p (issue p s) = .fail n ∧ c = .transport n) ∨
      (∃ d, nextAnswer p (issue p s) = .ok d ∧ c = .shortTransfer ∧
        ((∃ v i n, p = .ctrlIn v i n ∧ d.length ≠ n) ∨ ∃ ep n, p = .bulkIn ep n ∧ d.length ≠ n))) →
    t.frames = [] ∧ t.inflight = none ∧ t.streamReady = false ∧
    (∀ v i d, p = .ctrlOut v i d → t.responses = s.responses ++ [.err (.usbTransferFailed .dirOut v i c)]) ∧
    (∀ v i n, p = .ctrlIn v i n → t.responses = s.responses ++ [.err (.usbTransferFailed .dirIn v i c)]) ∧
    (∀ i, p = .claim i →
      t.responses = s.responses ++ [.err (.usbTransferFailed .dirClaim 0 (BitVec.ofNat 16 i) c)]) ∧
    (∀ i, p = .release i →
      t.responses = s.responses ++ [.err (.usbTransferFailed .dirRelease 0 (BitVec.ofNat 16 i) c)]) ∧
    (∀ ep n, p = .bulkIn ep n → t.responses = s.responses ++ [.err (.usbBulkReadFailed n c)]) ∧
    ((∀ ep n, p ≠ .bulkIn ep n) → t.session = .failed)

/-! ### RegisterBus commands -/

/-- R64: `writeReg`, and a `Reg` record, send the little-endian bytes of the value to the block's write index, and write
no state. -/
def Obligations.WriteRegCompletes : Prop :=
  ∀ (s : State) (b a v w : Int) (blk : Block) (x : List Byte), blockOf b = some blk → inRange 0 0xFFFF a = true →
    fitsWidth v w = true →
    let u := { s with trace := s.trace ++ [.ctrlOut (half a) (writeIndex s.cfg blk) (littleBytes v w.toNat)] }
    (ReadyInternal s → Completes (.writeReg b a v w) s [.ok x] .unit u) ∧
    (ReadyRecord s → Completes (.wcReg b a v w) s [.ok x] .unit u)

/-- R65, R68: `readReg` returns the little-endian value of the bytes the transport answers, `readDemodReg` the one byte;
neither writes state. -/
def Obligations.RegisterReadsComplete : Prop :=
  ∀ (s : State) (d : List Byte), ReadyInternal s →
    (∀ (b a w : Int) (blk : Block), blockOf b = some blk → inRange 0 0xFFFF a = true → isWidth w = true →
      d.length = w.toNat →
      Completes (.readReg b a w) s [.ok d] (.int (littleValue d))
        { s with trace := s.trace ++ [.ctrlIn (half a) (blockId s.cfg blk) w.toNat] }) ∧
    (∀ (p a : Int) (x : Byte), inRange 0 15 p = true → isByte a = true → d = [x] →
      Completes (.readDemodReg p a) s [.ok d] (.int x.toNat)
        { s with trace := s.trace ++ [.ctrlIn (demodValue a) (half p) 1] })

/-- R66, R62: with the mask 0xFF `writeRegMask` is the one transfer of `writeReg`; with another mask it reads the byte
and writes it back with the masked bits replaced. A `RegMask` record does the same. -/
def Obligations.WriteRegMaskCompletes : Prop :=
  ∀ (s : State) (b a v m : Int) (blk : Block) (x : List Byte) (old : Byte), blockOf b = some blk →
    inRange 0 0xFFFF a = true → isByte v = true → isByte m = true →
    let out := fun y : Byte => Primitive.ctrlOut (half a) (writeIndex s.cfg blk) [y]
    let u1 := { s with trace := s.trace ++ [out (byteOf v)] }
    let u2 := { s with trace := s.trace ++
      [.ctrlIn (half a) (blockId s.cfg blk) 1, out (maskMerge old (byteOf v) (byteOf m))] }
    (ReadyInternal s → m = 0xFF → Completes (.writeRegMask b a v m) s [.ok x] .unit u1) ∧
    (ReadyInternal s → m ≠ 0xFF → Completes (.writeRegMask b a v m) s [.ok [old], .ok x] .unit u2) ∧
    (ReadyRecord s → m = 0xFF → Completes (.wcRegMask b a v m) s [.ok x] .unit u1) ∧
    (ReadyRecord s → m ≠ 0xFF → Completes (.wcRegMask b a v m) s [.ok [old], .ok x] .unit u2)

/-- R67, R42, R150: `writeDemodReg`, and a `DemodReg` record, send the big-endian bytes and then read the poll register;
the polled byte is discarded, and no state is written. -/
def Obligations.WriteDemodRegCompletes : Prop :=
  ∀ (s : State) (p a v w : Int) (x : List Byte) (y : Byte), inRange 0 15 p = true → isByte a = true →
    fitsWidth v w = true →
    let u := { s with trace := s.trace ++ demodWritePrims p a (littleBytes v w.toNat).reverse }
    (ReadyInternal s → Completes (.writeDemodReg p a v w) s [.ok x, .ok [y]] .unit u) ∧
    (ReadyRecord s → Completes (.wcDemodReg p a v w) s [.ok x, .ok [y]] .unit u)

/-- R69, R70: `openI2C` and `closeI2C` write 0x18 and 0x10 to demodulator page 1 address 1, poll, and then set and clear
`i2cOpen`. R23 (a): the flag is set only by a step with an `openI2C` in progress, and cleared only by one with a
`closeI2C` in progress, so from the completion of the one it is true to the start of the other. -/
def Obligations.RepeaterCommandsComplete : Prop :=
  (∀ (s : State) (x : List Byte) (y : Byte), ReadyInternal s →
    Completes .openI2C s [.ok x, .ok [y]] .unit
      { s with i2cOpen := true, trace := s.trace ++ demodWritePrims 1 1 [0x18] } ∧
    Completes .closeI2C s [.ok x, .ok [y]] .unit
      { s with i2cOpen := false, trace := s.trace ++ demodWritePrims 1 1 [0x10] }) ∧
  (∀ s t : State, s.inflight = none → step s = .next t →
    (s.i2cOpen = false → t.i2cOpen = true → .openI2CDone ∈ s.frames) ∧
    (s.i2cOpen = true → t.i2cOpen = false → .closeI2CDone ∈ s.frames))

/-- R71, R73, R80, R82: the reads through the I2C proxy select the register and read the bytes. `readI2CReg`,
`readI2CRegBuffer` and `tuner.check` take the bytes as they come; `tuner.readRegBuffer` reverses each. None writes
state. -/
def Obligations.I2CReadsComplete : Prop :=
  ∀ (s : State) (x raw : List Byte) (y : Byte), ReadyInternal s → s.i2cOpen = true →
    (∀ d a : Int, isByte d = true → isByte a = true →
      Completes (.readI2CReg d a) s [.ok x, .ok [y]] (.byte y) { s with trace := s.trace ++ i2cReadPrims s.cfg d a 1 } ∧
      (∀ n : Int, 1 ≤ n → raw.length = n.toNat →
        Completes (.readI2CRegBuffer d a n) s [.ok x, .ok raw] (.bytes raw)
          { s with trace := s.trace ++ i2cReadPrims s.cfg d a n.toNat })) ∧
    Completes .tunerCheck s [.ok x, .ok [y]] (.bool (y == 0x69))
      { s with trace := s.trace ++ i2cReadPrims s.cfg 0x34 0 1 } ∧
    (∀ a n : Int, s.tunerPresent = true → 0 ≤ a → 1 ≤ n → a + n ≤ 0x20 → raw.length = n.toNat →
      Completes (.tunerReadRegBuffer a n) s [.ok x, .ok raw] (.bytes (raw.map (bitrev s.cfg.bitrevMode)))
        { s with trace := s.trace ++ i2cReadPrims s.cfg 0x34 a n.toNat })

/-- R72, R74, R32: the writes through the I2C proxy send the register index and the data, in two transfers or in one as
`I2C_WRITE_FORM` says, and write no state. An `I2CReg` record does the same. -/
def Obligations.I2CWritesComplete : Prop :=
  ∀ (s : State) (d a v : Int) (bs : List Byte) (as : List Answer), s.i2cOpen = true → isByte d = true →
    isByte a = true → AllOk as →
    let u := fun data => { s with trace := s.trace ++ i2cWritePrims s.cfg d a data }
    (ReadyInternal s → isByte v = true → as.length = (i2cWritePrims s.cfg d a [byteOf v]).length →
      Completes (.writeI2CReg d a v) s as .unit (u [byteOf v])) ∧
    (ReadyRecord s → isByte v = true → as.length = (i2cWritePrims s.cfg d a [byteOf v]).length →
      Completes (.wcI2CReg d a v) s as .unit (u [byteOf v])) ∧
    (ReadyInternal s → 1 ≤ bs.length → as.length = (i2cWritePrims s.cfg d a bs).length →
      Completes (.writeI2CRegBuffer d a bs) s as .unit (u bs))

/-- R75, R51, R52: a batch of records that can run completes and writes no state; a record with an illegal tag ends the
command in `UnsupportedOperation` after the records before it are applied, and the session is FAILED; one with a legal tag
and another number of fields than R51 gives it faults there (log entry 7). -/
def Obligations.WriteEachCompletes : Prop :=
  ∀ (O : Transport) (s : State) (cs rest : List WriteCommand) (tag : Byte) (fields : List Int), ReadyInternal s →
    Faithful O → batchRuns s.i2cOpen cs = true →
    Succeeds O (.writeEach cs) s (fun v t => v = .unit ∧ SameButTrace s t) ∧
    (3 < tag.toNat → EndsInError O (.writeEach (cs ++ .unknown tag fields :: rest)) s .unsupportedOperation fun t =>
      t.session = .failed ∧ ∃ r, directWriteEach O cs (Run.start s) = .ok () r ∧ t.trace = r.state.trace) ∧
    (tag.toNat ≤ 3 → EndsInFault O (.writeEach (cs ++ .unknown tag fields :: rest)) s .valueOutOfRange)

/-- R76, R77, R78: the interface is claimed and released, and a bulk read returns the bytes as they come. -/
def Obligations.InterfaceCommandsComplete : Prop :=
  ∀ (s : State) (x d : List Byte) (n : Int), ReadyInternal s →
    Completes .claimInterface s [.ok x] .unit { s with claimed := true, trace := s.trace ++ [.claim 0] } ∧
    Completes .releaseInterface s [.ok x] .unit { s with claimed := false, trace := s.trace ++ [.release 0] } ∧
    (s.claimed = true → 1 ≤ n → d.length = n.toNat →
      Completes (.readBulk n) s [.ok d] (.bytes d) { s with trace := s.trace ++ [.bulkIn 1 n.toNat] })

/-! ### Tuner commands -/

/-- R83: a masked write replaces the masked bits of the shadow cell and sends the same byte to the tuner; nothing else
changes, and the device is not read. -/
def Obligations.MaskedWriteCompletes : Prop :=
  ∀ (s : State) (a v m : Int) (i : Fin 27) (old : Byte) (as : List Answer), ReadyInternal s → TunerReachable s →
    shadowIndex a = some i → s.shadow[i] = some old → isByte m = true → AllOk as →
    let n := maskMerge old (byteOf v) (byteOf m)
    as.length = (i2cWritePrims s.cfg 0x34 a [n]).length →
    Completes (.tunerWriteRegMask a v m) s as .unit
      { s with shadow := s.shadow.set i (some n), trace := s.trace ++ i2cWritePrims s.cfg 0x34 a [n] }

/-- R86, R87, R84: `tuner.init` fills the shadow bank with the image and sets up the electronics; `tuner.initElectronics`
applies `INIT_ELEC_PRE`, calibrates, and applies `INIT_ELEC_POST` with the code folded in. The shadow bank is the one those
writes give. Both complete where the syntheses of the calibration lock, at the first attempt or at the second. -/
def Obligations.TunerInitCompletes : Prop :=
  ∀ (O : Transport) (s : State), ReadyInternal s → TunerReachable s → Faithful O → NINT_BASE ≤ nintOf CAL_FREQ (crystal s) →
    let image := electronics O s.cfg (crystal s) (27 * writeCount s.cfg)
    let alone := electronics O s.cfg (crystal s) 0
    let final := fun (bank : Vector (Option Byte) 27) (ws : List MaskedWrite) (v : Value) (t : State) =>
      v = .unit ∧ SameButTuning s t ∧ ShadowReady t ∧ t.hasLock = true ∧ t.pllState = .locked ∧ t.shadow = maskCells bank ws
    (image.locked = true → Succeeds O .tunerInit s (final (imageCells s.cfg) image.writes)) ∧
    (ShadowReady s → alone.locked = true → Succeeds O .tunerInitElectronics s (final s.shadow alone.writes))

/-- R88, R90, R109, R110: the operations that are a list of masked writes complete, and the shadow bank is the one the
list gives. -/
def Obligations.TunerListsComplete : Prop :=
  ∀ (O : Transport) (s : State), ReadyInternal s → TunerReady s → Faithful O →
    let list := fun (ws : List MaskedWrite) (v : Value) (t : State) =>
      v = .unit ∧ SameButShadow s t ∧ t.shadow = maskCells s.shadow ws
    Succeeds O .tunerClose s (list (s.cfg.standbyTable.map fun p => ⟨p.reg, p.value, 0xFF⟩)) ∧
    Succeeds O .tunerSetAutoGain s (list s.cfg.autoGainWrites) ∧
    (∀ g : Rat, Succeeds O (.tunerSetManualGain g) s (list (s.cfg.manualGainPre ++ gainWrites s.cfg (gainStep s.cfg g)))) ∧
    (∀ (f : Int) (n : Nat) (e : MuxEntry), 0 ≤ f → muxIndex s.cfg.muxTable ((f : Rat) / 1000000) = some n →
      s.cfg.muxTable[n]? = some e → Succeeds O (.tunerSetMux f) s (list (muxWrites s.cfg.muxFields e)))

/-- R92 to R99, R101: a synthesis within range returns the achieved frequency. The shadow bank is the one its masked writes
give, the nudge among them where the first lock read is clear, and the lock flag is that of the last lock read. One out of
range returns 0 after the divider write, with the lock flag cleared (R96). -/
def Obligations.SetPllCompletes : Prop :=
  ∀ (O : Transport) (s : State) (f : Int), ReadyInternal s → TunerReady s → Faithful O → tunable f = true →
    NINT_BASE ≤ nintOf f (crystal s) →
    let a := pllTuning O s.cfg f (crystal s) 0
    Succeeds O (.tunerSetPll f) s fun v t => SameButTuning s t ∧
      v = .rat (if NINT_MAX < nintOf f (crystal s) then 0 else achievedOf f (crystal s)) ∧
      t.shadow = maskCells s.shadow a.writes ∧ t.hasLock = a.locked ∧
      t.pllState = if a.locked then .locked else .unlocked

/-- R97, R98: where no later write of the synthesis names them, the registers of the integer divisor and of the
sigma-delta word end with the packed byte and with the word's two bytes. -/
def Obligations.SetPllRegisterBytes : Prop :=
  ∀ (bank : Vector (Option Byte) 27) (c : Config) (f : Int) (x : Rat) (nudged : Bool) (i j k : Fin 27),
    (∀ n : Fin 27, bank[n].isSome = true) → synthesizable f x = true → 0 < x →
    shadowIndex c.nisiReg = some i → shadowIndex c.sdmHiReg = some j → shadowIndex c.sdmLoReg = some k →
    [c.nisiReg, c.sdmHiReg, c.sdmLoReg].Nodup →
    (∀ r ∈ [c.nisiReg, c.sdmHiReg, c.sdmLoReg], r ≠ c.fracReg ∧ r ≠ c.vcoselReg ∧ r ≠ c.postlockReg) →
    let final := maskCells bank (pllSynthesisWrites c f x nudged)
    final[i].map BitVec.toNat = some (((nintOf f x - 13) / 4).toNat + 64 * ((nintOf f x - 13) % 4).toNat) ∧
    ∃ hi lo : Byte, final[j] = some hi ∧ final[k] = some lo ∧ (256 * hi.toNat + lo.toNat : Int) = sdmOf f x

/-- R91: `tuner.setFrequency` sets the multiplexer and then synthesizes. It returns the achieved frequency, or 0 where the
frequency is unreachable (R96). -/
def Obligations.SetFrequencyCompletes : Prop :=
  ∀ (O : Transport) (s : State) (f : Int), ReadyInternal s → TunerReady s → Faithful O → tunable f = true →
    NINT_BASE ≤ nintOf f (crystal s) →
    let a := retuning O s.cfg f (crystal s) 0
    Succeeds O (.tunerSetFrequency f) s fun v t => SameButTuning s t ∧
      v = .rat (if NINT_MAX < nintOf f (crystal s) then 0 else achievedOf f (crystal s)) ∧
      t.shadow = maskCells s.shadow a.writes ∧ t.hasLock = a.locked ∧
      t.pllState = if a.locked then .locked else .unlocked

/-- R101, R102: a lock read with the bit set ends in LOCKED. A first attempt with it clear nudges the VCO select field
and reads once more; a second with it clear ends in UNLOCKED. -/
def Obligations.GetPllLockCompletes : Prop :=
  ∀ (s : State) (x y raw raw' : List Byte) (first : Bool) (as : List Answer), ReadyInternal s → TunerReady s →
    raw.length = 3 → raw'.length = 3 → AllOk as →
    let rd := i2cReadPrims s.cfg 0x34 s.cfg.lockAddr 3
    let lockedBy := fun st : List Byte => lockBitSet (st.map (bitrev s.cfg.bitrevMode))
    let nudge : MaskedWrite := ⟨s.cfg.vcoselReg, s.cfg.vcoselVal, s.cfg.vcoselMask⟩
    let final := fun (b : Bool) (ps : List Primitive) (bank : Vector (Option Byte) 27) =>
      { s with hasLock := b, pllState := if b then .locked else .unlocked, shadow := bank, trace := s.trace ++ ps }
    (lockedBy raw = true →
      Completes (.tunerGetPllLock first) s [.ok x, .ok raw] (.bool true) (final true rd s.shadow)) ∧
    (lockedBy raw = false →
      Completes (.tunerGetPllLock false) s [.ok x, .ok raw] (.bool false) (final false rd s.shadow)) ∧
    (lockedBy raw = false → ∀ i old, shadowIndex nudge.addr = some i → s.shadow[i] = some old →
      let w := i2cWritePrims s.cfg 0x34 nudge.addr [maskMerge old (byteOf nudge.value) (byteOf nudge.mask)]
      as.length = w.length →
      Completes (.tunerGetPllLock true) s ([.ok x, .ok raw] ++ as ++ [.ok y, .ok raw']) (.bool (lockedBy raw'))
        (final (lockedBy raw') (rd ++ w ++ rd) (maskCell s.shadow nudge)))

/-- R103, R101: `calibrateFilter` completes where the syntheses of its passes lock, at the first attempt or, after the
nudge, at the second. It makes one pass, or two where `first` is true and the first pass reads a code other than 0, and
returns the code of the last pass it makes: the low nibble of the last byte of that pass's status read, 0x0F read as 0. -/
def Obligations.CalibrateFilterCompletes : Prop :=
  ∀ (O : Transport) (s : State) (first : Bool), ReadyInternal s → TunerReady s → Faithful O →
    NINT_BASE ≤ nintOf CAL_FREQ (crystal s) →
    let one := calibrationPass O s.cfg (crystal s) 0
    let two := calibrationPass O s.cfg (crystal s) one.count
    let final := fun (ws : List MaskedWrite) (st : List Byte) (v : Value) (t : State) =>
      SameButTuning s t ∧ t.hasLock = true ∧ t.pllState = .locked ∧ t.shadow = maskCells s.shadow ws ∧
      ∃ code : Int, v = .int code ∧ 0 ≤ code ∧ code ≤ 14 ∧
        code = if (st.getD 4 0).toNat % 16 = 15 then 0 else (st.getD 4 0).toNat % 16
    (one.locked = true → first = false ∨ one.code = 0 →
      Succeeds O (.tunerCalibrateFilter first) s (final one.writes one.status)) ∧
    (one.locked = true → first = true → one.code ≠ 0 → two.locked = true →
      Succeeds O (.tunerCalibrateFilter first) s (final (one.writes ++ two.writes) two.status))

/-! ### External commands -/

/-- R113, R149: `open` completes where the batches can run, the chip id is 0x69, the syntheses of the calibration lock, at
the first attempt or at the second, and the calibration frequency is in range, which it is for ppm above -513889 (R103). It
leaves the session OPEN, the interface claimed, the repeater closed, the tuner present, the crystal frequency set, and the
whole shadow bank filled with the image and the masked writes of the electronics and of the configured gain. -/
def Obligations.OpenCompletes : Prop :=
  ∀ (O : Transport) (s : State), ReadyExternal .idle s → Faithful O → ChipReads O s.cfg (chipIndex s.cfg) 0x69 →
    -513889 < s.ppm → batchRuns s.i2cOpen s.cfg.usbConfigBatch = true → batchRuns s.i2cOpen s.cfg.demodInitBatch = true →
    batchRuns true (evalBatch s.cfg.ifWrites (ifMultiplier (correctedCrystal s.ppm))) = true →
    let a := electronics O s.cfg (correctedCrystal s.ppm) (electronicsIndex s.cfg s.ppm)
    a.locked = true →
    Succeeds O .controllerOpen s fun v t => v = .unit ∧ ShadowReady t ∧
      t.shadow = maskCells (imageCells s.cfg) (a.writes ++ gainSettingWrites s.cfg s.gainCfg) ∧
      t = { s with
        session := .opened
        claimed := true
        i2cOpen := false
        tunerPresent := true
        shadow := t.shadow
        hasLock := true
        pllState := .locked
        xtalFreq := some (correctedCrystal s.ppm)
        streamReady := false
        trace := t.trace }

/-- R113, R136: a chip id other than 0x69 ends `open` in `UnsupportedTunerChip`; the session is FAILED, the interface stays
claimed and the repeater open, and no shadow cell is written. R103, R136: a calibration pass whose synthesis does not lock
ends `calibrateFilter`, and every operation above it, in `PllNotLocked`; the session is FAILED, and after `open` the
interface stays claimed and the repeater open. -/
def Obligations.BringUpErrors : Prop :=
  (∀ (O : Transport) (s : State), ReadyExternal .idle s → Faithful O →
    batchRuns s.i2cOpen s.cfg.usbConfigBatch = true → batchRuns s.i2cOpen s.cfg.demodInitBatch = true →
    (∀ b : Byte, ChipReads O s.cfg (chipIndex s.cfg) b → b ≠ 0x69 →
      EndsInError O .controllerOpen s .unsupportedTunerChip fun t => t.session = .failed ∧ t.claimed = true ∧
        t.i2cOpen = true ∧ t.tunerPresent = s.tunerPresent ∧ t.shadow = s.shadow ∧
        t.responses = s.responses ++ [.err .unsupportedTunerChip]) ∧
    (ChipReads O s.cfg (chipIndex s.cfg) 0x69 → -513889 < s.ppm →
      batchRuns true (evalBatch s.cfg.ifWrites (ifMultiplier (correctedCrystal s.ppm))) = true →
      (electronics O s.cfg (correctedCrystal s.ppm) (electronicsIndex s.cfg s.ppm)).locked = false →
      EndsInError O .controllerOpen s .pllNotLocked fun t => t.session = .failed ∧ t.claimed = true ∧
        t.i2cOpen = true ∧ t.tunerPresent = true ∧ t.hasLock = false ∧ t.pllState = .unlocked ∧
        t.responses = s.responses ++ [.err .pllNotLocked])) ∧
  (∀ (O : Transport) (s : State), ReadyInternal s → TunerReachable s → Faithful O →
    NINT_BASE ≤ nintOf CAL_FREQ (crystal s) →
    let final := fun t : State => t.session = .failed ∧ t.hasLock = false ∧ t.pllState = .unlocked ∧
      t.responses = s.responses ++ [.err .pllNotLocked]
    (∀ first, ShadowReady s → (calibration O s.cfg (crystal s) first 0).locked = false →
      EndsInError O (.tunerCalibrateFilter first) s .pllNotLocked final) ∧
    (ShadowReady s → (electronics O s.cfg (crystal s) 0).locked = false →
      EndsInError O .tunerInitElectronics s .pllNotLocked final) ∧
    ((electronics O s.cfg (crystal s) (27 * writeCount s.cfg)).locked = false →
      EndsInError O .tunerInit s .pllNotLocked final))

/-- R118, R119, R120: `setSampleRate` writes its three batches and returns the rate of the masked ratio, and writes no
state. -/
def Obligations.SetSampleRateCompletes : Prop :=
  ∀ (O : Transport) (s : State) (rate : Int), ReadyExternal .opened s → Faithful O → 0 < rate → sampleRatio rate ≠ 0 →
    batchRuns s.i2cOpen (evalBatch s.cfg.srRatioWrites (sampleRatio rate)) = true →
    batchRuns s.i2cOpen (evalBatch s.cfg.ppmWrites (evalFormula s.ppm s.cfg.ppmOffset)) = true →
    batchRuns s.i2cOpen s.cfg.softReset = true →
    Succeeds O (.setSampleRate rate) s fun v t => v = .rat (28800000 * 4194304 / (sampleRatio rate : Rat)) ∧
      SameButTrace s t

/-- R121: `setCenterFrequency` opens the repeater, tunes to the frequency plus IF_FREQ, closes the repeater and returns
the achieved frequency less IF_FREQ; an unreachable target returns -IF_FREQ. -/
def Obligations.SetCenterFrequencyCompletes : Prop :=
  ∀ (O : Transport) (s : State) (f : Int), ReadyExternal .opened s → s.tunerPresent = true → ShadowReady s →
    Faithful O → 0 < f + 3570000 → f + 3570000 ≤ 1770000000 → NINT_BASE ≤ nintOf (f + 3570000) (crystal s) →
    let a := retuning O s.cfg (f + 3570000) (crystal s) 2
    Succeeds O (.setCenterFrequency f) s fun v t => SameButTuning { s with i2cOpen := false } t ∧
      v = .rat ((if NINT_MAX < nintOf (f + 3570000) (crystal s) then 0 else achievedOf (f + 3570000) (crystal s))
        - 3570000) ∧
      t.shadow = maskCells s.shadow a.writes ∧ t.hasLock = a.locked ∧
      t.pllState = if a.locked then .locked else .unlocked

/-- R116, R117: `setGain` opens the repeater, sets automatic gain for `none` and manual gain for a number, 0 dB among
them, and closes the repeater. -/
def Obligations.SetGainCompletes : Prop :=
  ∀ (O : Transport) (s : State) (g : Option Rat), ReadyExternal .opened s → s.tunerPresent = true → ShadowReady s →
    Faithful O →
    Succeeds O (.setGain g) s fun v t => v = .unit ∧ SameButShadow { s with i2cOpen := false } t ∧
      t.shadow = maskCells s.shadow (gainSettingWrites s.cfg g)

/-- R122, R123, R36: `resetBuffer` writes its batch and makes the stream ready; `readSamples` returns the 2 * count bytes
of the bulk read as they come, and writes no state. -/
def Obligations.StreamCommandsComplete : Prop :=
  ∀ (s : State), ReadyExternal .opened s →
    (∀ O : Transport, Faithful O → batchRuns s.i2cOpen s.cfg.epaReset = true →
      Succeeds O .resetBuffer s fun v t => v = .unit ∧ SameButTrace { s with streamReady := true } t) ∧
    (∀ (count : Int) (d : List Byte), s.streamReady = true → s.claimed = true → 1 ≤ count →
      d.length = (2 * count).toNat →
      Completes (.readSamples count) s [.ok d] (.bytes d)
        { s with trace := s.trace ++ [.bulkIn 1 (2 * count).toNat] })

/-- R133, R134, R123: a failed bulk read clears `streamReady` and leaves the session OPEN; the error answers with the
length asked for. A bulk read of the wrong length is the failure `ShortTransfer`. -/
def Obligations.ReadSamplesFailure : Prop :=
  ∀ (s : State) (count : Int) (a : Answer) (rest : List Answer), ReadyExternal .opened s → s.streamReady = true →
    s.claimed = true → 1 ≤ count → (∀ d, a = .ok d → d.length ≠ (2 * count).toNat) →
    exec (.readSamples count) { s with answers := a :: rest } =
      .next { s with
        streamReady := false
        answers := rest
        frames := []
        latch := .unit
        inflight := none
        trace := s.trace ++ [.bulkIn 1 (2 * count).toNat]
        responses := s.responses ++ [.err (.usbBulkReadFailed (2 * count).toNat
          (match a with
            | .ok _ => .shortTransfer
            | .fail c => .transport c))] }

/-- R125: `close` powers the tuner down with the standby writes, closes the repeater, releases the interface and leaves
the session CLOSED. -/
def Obligations.CloseCompletes : Prop :=
  ∀ (O : Transport) (s : State), ReadyExternal .opened s → s.tunerPresent = true → ShadowReady s → Faithful O →
    Succeeds O .controllerClose s fun v t => v = .unit ∧
      t = { s with
        session := .closed
        claimed := false
        i2cOpen := false
        streamReady := false
        shadow := maskCells s.shadow (s.cfg.standbyTable.map fun p => ⟨p.reg, p.value, 0xFF⟩)
        trace := t.trace }

/-! ### Faults -/

/-- R112: an external command in a session other than the one it requires faults, before any traffic and whatever its
operand. -/
def Obligations.ExternalNeedsSession : Prop :=
  ∀ (s : State) (n : Int) (g : Option Rat),
    (s.session ≠ .idle → exec .controllerOpen s = .fault .wrongSessionState) ∧
    (s.session ≠ .opened → ∀ i ∈ ([.setSampleRate n, .setCenterFrequency n, .setGain g, .resetBuffer, .readSamples n,
      .controllerClose] : List Instr), exec i s = .fault .wrongSessionState)

/-- R138, R135: an internal command faults where the test port is closed or the session is CLOSED or FAILED, before its
operands are looked at. -/
def Obligations.InternalNeedsTestPort : Prop :=
  ∀ (s : State) (i : Instr), i.isBatchRecord = false → isExternal i = false →
    (s.cfg.testPort = false ∨ s.session = .closed ∨ s.session = .failed) → exec i s = .fault .notPermitted

/-- R58, R31, R34, R66 to R68, R71 to R74, R78, R135: the RegisterBus commands stop on an operand outside its range, on a
closed repeater, on an unclaimed interface and on a length below 1, before any traffic. Of these the range of an I2C
operand comes first, and then the closed repeater (log entry 11). A register width outside 1, 2 and 4 ends the command in
`UnsupportedRegisterWidth`, before any traffic, and the session is FAILED (R34, R134). -/
def Obligations.BusCommandStops : Prop :=
  ∀ s : State, ReadyInternal s →
    (∀ b a v w m : Int, (isBlockCode b = false ∨ inRange 0 0xFFFF a = false) →
      ∀ i ∈ ([.writeReg b a v w, .readReg b a w, .writeRegMask b a v m] : List Instr), exec i s = .fault .valueOutOfRange) ∧
    (∀ b a v w : Int, isBlockCode b = true → inRange 0 0xFFFF a = true → isWidth w = true → fitsWidth v w = false →
      exec (.writeReg b a v w) s = .fault .valueOutOfRange) ∧
    (∀ b a v m : Int, (isByte v = false ∨ isByte m = false) →
      exec (.writeRegMask b a v m) s = .fault .valueOutOfRange) ∧
    (∀ p a v w : Int, inRange 0 15 p = false →
      exec (.writeDemodReg p a v w) s = .fault .invalidPage ∧ exec (.readDemodReg p a) s = .fault .invalidPage) ∧
    (∀ p a v w : Int, inRange 0 15 p = true → isByte a = false →
      exec (.writeDemodReg p a v w) s = .fault .valueOutOfRange ∧
      exec (.readDemodReg p a) s = .fault .valueOutOfRange) ∧
    (∀ p a v w : Int, inRange 0 15 p = true → isByte a = true → isWidth w = true → fitsWidth v w = false →
      exec (.writeDemodReg p a v w) s = .fault .valueOutOfRange) ∧
    (∀ d a v n : Int, ∀ bs, (isByte d = false ∨ isByte a = false) → ∀ i ∈ ([.readI2CReg d a, .writeI2CReg d a v,
      .readI2CRegBuffer d a n, .writeI2CRegBuffer d a bs] : List Instr), exec i s = .fault .valueOutOfRange) ∧
    (∀ d a v : Int, isByte v = false → exec (.writeI2CReg d a v) s = .fault .valueOutOfRange) ∧
    (∀ d a v n : Int, ∀ bs, s.i2cOpen = false → isByte d = true → isByte a = true → isByte v = true →
      ∀ i ∈ ([.readI2CReg d a, .writeI2CReg d a v, .readI2CRegBuffer d a n, .writeI2CRegBuffer d a bs,
        .tunerCheck] : List Instr), exec i s = .fault .i2cNotOpen) ∧
    (∀ d a n : Int, s.i2cOpen = true → isByte d = true → isByte a = true → n < 1 →
      exec (.readI2CRegBuffer d a n) s = .fault .invalidLength ∧
      exec (.writeI2CRegBuffer d a []) s = .fault .invalidLength) ∧
    (∀ n : Int, n < 1 → exec (.readBulk n) s = .fault .invalidLength) ∧
    (∀ n : Int, 1 ≤ n → s.claimed = false → exec (.readBulk n) s = .fault .interfaceNotClaimed) ∧
    (∀ b a v w : Int, isWidth w = false → let t := errorEntry .unsupportedRegisterWidth s
      t.session = .failed ∧ t.responses = s.responses ++ [.err .unsupportedRegisterWidth] ∧ t.trace = s.trace ∧
      (isBlockCode b = true → inRange 0 0xFFFF a = true →
        exec (.writeReg b a v w) s = .next t ∧ exec (.readReg b a w) s = .next t) ∧
      (inRange 0 15 b = true → isByte a = true → exec (.writeDemodReg b a v w) s = .next t))

/-- R79, R82, R83, R86, R90, R91, R92, R96: the tuner commands stop without a tuner, on a closed repeater, on an address
outside the shadow bank, on a cell that holds `undef` and on a frequency they do not accept, before any traffic; a
synthesis stops on an integer divisor below 13, whichever operation asked for it. A command that is a list of masked writes
stops on a closed repeater where the list is not empty. setMux takes 0 Hz as R90 does (log entry 20). -/
def Obligations.TunerCommandFaults : Prop :=
  (∀ s : State, ReadyInternal s →
    (∀ f a n m : Int, ∀ g b, s.tunerPresent = false → ∀ i ∈ ([.tunerInit, .tunerInitElectronics, .tunerSetFrequency f,
      .tunerSetMux f, .tunerSetPll f, .tunerGetPllLock b, .tunerCalibrateFilter b, .tunerSetAutoGain,
      .tunerSetManualGain g, .tunerReadRegBuffer a n, .tunerWriteRegMask a n m, .tunerClose] : List Instr),
      exec i s = .fault .tunerNotPresent) ∧
    (s.tunerPresent = true →
      (s.i2cOpen = false →
        exec .tunerInit s = .fault .i2cNotOpen ∧
        (∀ b, exec (.tunerGetPllLock b) s = .fault .i2cNotOpen) ∧
        (∀ a n : Int, 0 ≤ a → 1 ≤ n → a + n ≤ 0x20 → exec (.tunerReadRegBuffer a n) s = .fault .i2cNotOpen) ∧
        (ShadowReady s →
          (∀ f : Int, 0 ≤ f → exec (.tunerSetMux f) s = .fault .i2cNotOpen) ∧
          (∀ f : Int, tunable f = true → exec (.tunerSetPll f) s = .fault .i2cNotOpen ∧
            exec (.tunerSetFrequency f) s = .fault .i2cNotOpen) ∧
          (∀ b g, ∀ i ∈ ([.tunerInitElectronics, .tunerCalibrateFilter b, .tunerSetManualGain g, .tunerClose] : List Instr),
            exec i s = .fault .i2cNotOpen) ∧
          (s.cfg.autoGainWrites ≠ [] → exec .tunerSetAutoGain s = .fault .i2cNotOpen))) ∧
      (∀ a v m : Int, inRange 0x05 0x1F a = false →
        exec (.tunerWriteRegMask a v m) s = .fault .shadowAddressOutOfRange) ∧
      (∀ a v m : Int, inRange 0x05 0x1F a = true → isByte m = false →
        exec (.tunerWriteRegMask a v m) s = .fault .valueOutOfRange) ∧
      (∀ a v m : Int, ∀ i, shadowIndex a = some i → isByte m = true → s.shadow[i] = none →
        exec (.tunerWriteRegMask a v m) s = .fault .shadowUninitialised) ∧
      (∀ a v m : Int, ∀ i, shadowIndex a = some i → isByte m = true → s.shadow[i].isSome = true → s.i2cOpen = false →
        exec (.tunerWriteRegMask a v m) s = .fault .i2cNotOpen) ∧
      (∀ a n : Int, (inRange 0 0x1F a = false ∨ n < 1 ∨ 0x20 < a + n) →
        exec (.tunerReadRegBuffer a n) s = .fault .valueOutOfRange) ∧
      (∀ f : Int, f < 0 → exec (.tunerSetMux f) s = .fault .frequencyOutOfRange) ∧
      (∀ f : Int, (f ≤ 0 ∨ 1770000000 < f) → exec (.tunerSetPll f) s = .fault .frequencyOutOfRange ∧
        exec (.tunerSetFrequency f) s = .fault .frequencyOutOfRange) ∧
      (∀ (O : Transport) (f : Int), TunerReady s → Faithful O → tunable f = true → nintOf f (crystal s) < 13 →
        EndsInFault O (.tunerSetPll f) s .nintBelowRange ∧ EndsInFault O (.tunerSetFrequency f) s .nintBelowRange))) ∧
  (∀ (O : Transport) (s : State) (f : Int), ReadyExternal .opened s → s.tunerPresent = true → ShadowReady s →
    Faithful O → 0 < f + 3570000 → f + 3570000 ≤ 1770000000 → nintOf (f + 3570000) (crystal s) < 13 →
    EndsInFault O (.setCenterFrequency f) s .nintBelowRange)

/-- R118, R119, R121, R123, R152: the external commands stop on a rate they cannot make, on a target they cannot tune to,
on a count below 1 and on a stream that has not been reset, before any traffic. -/
def Obligations.ControllerCommandFaults : Prop :=
  ∀ s : State, ReadyExternal .opened s →
    (∀ rate : Int, (rate ≤ 0 ∨ sampleRatio rate = 0) → exec (.setSampleRate rate) s = .fault .invalidSampleRate) ∧
    (∀ f : Int, (f + 3570000 ≤ 0 ∨ 1770000000 < f + 3570000) →
      exec (.setCenterFrequency f) s = .fault .frequencyOutOfRange) ∧
    (∀ n : Int, n < 1 → exec (.readSamples n) s = .fault .invalidLength) ∧
    (∀ n : Int, 1 ≤ n → s.streamReady = false → exec (.readSamples n) s = .fault .streamNotReset)

/-! ### Formulas -/

/-- R27: the status word holds the session in bits 1..0, the lock flag in bit 2 and the tuning state in bits 4..3. -/
def Obligations.StatusWordFields : Prop :=
  ∀ s : State, statusWord s % 4 = sessionCode s.session ∧ statusWord s / 4 % 2 = s.hasLock.toNat ∧
    statusWord s / 8 = pllStateCode s.pllState

/-- R33, R34: `decode` inverts `encode` in both orders, for every width and every value that fits it, and `encode`
inverts `decode`; the byte at position i of a little-endian value is its i-th byte, and the big-endian order is the
reverse. Both stop on a width outside 1, 2 and 4, and `encode` on a value that does not fit. -/
def Obligations.ByteOrders : Prop :=
  (∀ v w : Int, fitsWidth v w = true →
    (∀ o : ByteOrder, ∃ bs, encodeValue v w o = .ok bs ∧ bs.length = w.toNat ∧ decodeValue bs o = .ok v) ∧
    encodeValue v w .little = .ok (littleBytes v w.toNat) ∧
    encodeValue v w .big = .ok (littleBytes v w.toNat).reverse ∧
    (∀ i, i < w.toNat → ((littleBytes v w.toNat).getD i 0).toNat = (v / 2 ^ (8 * i)) % 256)) ∧
  (∀ (v w : Int) (o : ByteOrder),
    (¬ (w = 1 ∨ w = 2 ∨ w = 4) → encodeValue v w o = .error (.error .unsupportedRegisterWidth)) ∧
    ((w = 1 ∨ w = 2 ∨ w = 4) → ¬ (0 ≤ v ∧ v < 2 ^ (8 * w.toNat)) →
      encodeValue v w o = .error (.fault .valueOutOfRange))) ∧
  (∀ (bs : List Byte) (o : ByteOrder),
    (¬ (bs.length = 1 ∨ bs.length = 2 ∨ bs.length = 4) →
      decodeValue bs o = .error (.error .unsupportedRegisterWidth)) ∧
    ((bs.length = 1 ∨ bs.length = 2 ∨ bs.length = 4) →
      ∃ v, decodeValue bs o = .ok v ∧ encodeValue v bs.length o = .ok bs))

/-- R54: the setup stage of a control transfer has eight bytes; as a little-endian number its fields are the request
type, the request, wValue, wIndex and wLength. The layout and the two request types are general knowledge, as R54 marks
them (log entry 13). -/
def Obligations.SetupStageFields : Prop :=
  ∀ (v i : Half) (d : List Byte) (n : Nat),
    (d.length < 65536 → ∃ bs, setupBytes (.ctrlOut v i d) = some bs ∧ bs.length = 8 ∧
      littleValue bs = 0x40 + 65536 * (v.toNat + 65536 * (i.toNat + 65536 * d.length))) ∧
    (n < 65536 → ∃ bs, setupBytes (.ctrlIn v i n) = some bs ∧ bs.length = 8 ∧
      littleValue bs = 0xC0 + 65536 * (v.toNat + 65536 * (i.toNat + 65536 * n)))

/-- R81: the nibble reversal reverses four bits; both byte reversals are involutions; the full one reverses all eight
bits. -/
def Obligations.BitReversal : Prop :=
  (∀ x : BitVec 4, (rev4 x).toNat = 8 * (x.toNat % 2) + 4 * (x.toNat / 2 % 2) + 2 * (x.toNat / 4 % 2) + x.toNat / 8) ∧
  (∀ (m : BitrevMode) (b : Byte), bitrev m (bitrev m b) = b) ∧
  (∀ b : Byte, (bitrev .inPlace b).toNat =
    16 * (rev4 (b.extractLsb' 4 4)).toNat + (rev4 (b.extractLsb' 0 4)).toNat) ∧
  (∀ (b : Byte) (i : Nat), i < 8 → (bitrev .fullByte b).getLsbD i = b.getLsbD (7 - i))

/-- R11: `flog2 q` is the unique integer k with 2^k <= q < 2^(k+1). -/
def Obligations.FloorLog : Prop :=
  ∀ q : Rat, 0 < q → ((2 : Rat) ^ (flog2 q) ≤ q ∧ q < (2 : Rat) ^ (flog2 q + 1)) ∧
    ∀ k : Int, (2 : Rat) ^ k ≤ q → q < (2 : Rat) ^ (k + 1) → k = flog2 q

/-- R89: on an admissible table the multiplexer index is the largest one whose threshold, in MHz, is at most the
frequency; there is one for every frequency, and it never falls as the frequency rises. -/
def Obligations.MuxIndexIsStep : Prop :=
  ∀ (c : Config) (f f' : Rat), okMuxTable c = true → 0 ≤ f → f ≤ f' →
    ∃ n n' e, muxIndex c.muxTable (f / 1000000) = some n ∧ muxIndex c.muxTable (f' / 1000000) = some n' ∧ n ≤ n' ∧
      c.muxTable[n]? = some e ∧ e.threshold ≤ f / 1000000 ∧
      ∀ k e', c.muxTable[k]? = some e' → e'.threshold ≤ f / 1000000 → k ≤ n

/-- R93: the divider exponent is in 0..6; below 6 it puts the VCO above VCO_MIN and at most at twice that; it is 6
exactly for a frequency of at most VCO_MIN / 64. -/
def Obligations.DividerChoice : Prop :=
  ∀ f : Int, tunable f = true →
    let d0 := dividerExponent f
    let vco := (f : Rat) * mixDivOf d0
    0 ≤ d0 ∧ d0 ≤ 6 ∧ mixDivOf d0 = (2 : Rat) ^ (d0 + 1) ∧ (d0 < 6 → 1770000000 < vco ∧ vco ≤ 3540000000) ∧
    (d0 = 6 ↔ f ≤ 27656250) ∧ vco ≤ 3540000000

/-- R95, R97, R98: the VCO frequency is split into the integer divisor and a remainder below twice the crystal; the
divisor packs into a byte with its two fields apart; the sigma-delta word needs no clamp. -/
def Obligations.PllParameters : Prop :=
  ∀ (f : Int) (md x : Rat), 0 < x →
    let n := pllNint f md x
    let fra := pllFraction f md x
    (f : Rat) * md = 2 * x * n + fra ∧ 0 ≤ fra ∧ fra < 2 * x ∧
    (13 ≤ n → n ≤ 63 → packNint n = (n - 13) / 4 + 64 * ((n - 13) % 4) ∧ 0 ≤ packNint n ∧ packNint n ≤ 0xFC) ∧
    sigmaDelta fra x = (32768 * fra / x).floor ∧ 0 ≤ sigmaDelta fra x ∧ sigmaDelta fra x ≤ 65535

/-- R100: the achieved frequency is at most the requested one, and less than one synthesizer step below it. -/
def Obligations.SynthesisError : Prop :=
  ∀ (f : Int) (x : Rat), 0 < x → tunable f = true →
    0 ≤ (f : Rat) - achievedOf f x ∧ (f : Rat) - achievedOf f x < 2 * x / (65536 * mixDivOf (dividerExponent f))

/-- R96, R103: at the nominal crystal no frequency is unreachable, and exactly those below 5850000 Hz have a divisor
below 13; a frequency is unreachable only with a crystal of at most VCO_MIN / 64; the calibration frequency is in range
exactly for ppm above -513889. -/
def Obligations.SynthesisReach : Prop :=
  (∀ f : Int, tunable f = true → nintOf f 28800000 ≤ 61 ∧ (nintOf f 28800000 < 13 ↔ f < 5850000)) ∧
  (∀ (f : Int) (x : Rat), 0 < x → tunable f = true → NINT_MAX < nintOf f x → x ≤ 27656250) ∧
  (∀ ppm : Int, okPpm ppm = true →
    (synthesizable CAL_FREQ (correctedCrystal ppm) = true ↔ -513889 < ppm))

/-- R107, R108, R111: the gain step is in 0..30 for every gain, and is the rounded value of the selected polynomial
where that is in range; the LNA step is half of it, in 0..15, the mixer step half of one less, in -1..14, and they add up
to the step less one. -/
def Obligations.GainSplit : Prop :=
  ∀ (c : Config) (g : Rat), let st := gainStep c g
    let x := Cubic.eval (if g ≤ 15 then c.gainPolyLo else c.gainPolyHi) g
    0 ≤ st ∧ st ≤ 30 ∧ (-1 / 2 ≤ x → x < 61 / 2 → (st : Rat) ≤ x + 1 / 2 ∧ x - 1 / 2 < (st : Rat)) ∧
    (x < -1 / 2 → st = 0) ∧ (61 / 2 ≤ x → st = 30) ∧
    2 * lnaStep st ≤ st ∧ st < 2 * lnaStep st + 2 ∧ 2 * mixStep st ≤ st - 1 ∧ st - 1 < 2 * mixStep st + 2 ∧
    0 ≤ lnaStep st ∧ lnaStep st ≤ 15 ∧ -1 ≤ mixStep st ∧ mixStep st ≤ 14 ∧ lnaStep st + mixStep st = st - 1 ∧
    lnaStep st - mixStep st = if st % 2 = 0 then 1 else 0

/-- R119: the ratio is floor(XTAL * 2^22 / rate) with its bits 27..2 kept and every other bit clear. Above 450000 Hz no
bit above 27 is lost, the ratio is 0 exactly where the rate is above XTAL * 2^20 Hz, and the achieved rate is at least the
requested one, and less than 4 * rate / ratio above it. -/
def Obligations.SampleRatio : Prop :=
  ∀ rate : Int, 0 < rate →
    let q := ((28800000 * 4194304 : Rat) / rate).floor
    let ratio := sampleRatio rate
    (∀ i : Nat, ratio.testBit i = (decide (2 ≤ i ∧ i ≤ 27) && q.toNat.testBit i)) ∧
    ratio % 4 = 0 ∧ ratio < 2 ^ 28 ∧
    (450000 < rate →
      (ratio : Int) = q - q % 4 ∧ (ratio ≠ 0 ↔ rate ≤ 28800000 * 1048576) ∧
      (ratio ≠ 0 → achievedRate ratio = 28800000 * 4194304 / (ratio : Rat) ∧ 0 ≤ achievedRate ratio - rate ∧
        achievedRate ratio - rate < 4 * (rate : Rat) / (ratio : Rat)))

/-- R114, R115: the crystal frequency is positive for every admissible ppm, and the IF multiplier is negative. -/
def Obligations.CrystalFrequency : Prop :=
  ∀ ppm : Int, okPpm ppm = true →
    correctedCrystal ppm = 28800000 * (1 + (ppm : Rat) / 1000000) ∧ 0 < correctedCrystal ppm ∧
    ifMultiplier (correctedCrystal ppm) < 0 ∧
    ifMultiplier (correctedCrystal ppm) = -(3570000 * 4194304 / correctedCrystal ppm).floor

/-- R157: the number of primitives of the operations, where they complete without error; `W` is 2 or 1 as `I2C_WRITE_FORM`
says. A lock attempt is counted by what its first read gave, and a calibration by the code of its first pass. -/
def Obligations.TransferCounts : Prop :=
  ∀ (O : Transport) (s : State) (i : Instr) (v : Value) (r : Run), configured s = true →
    direct O i (Run.start s) = .ok v r →
    let W := writeCount s.cfg
    let x := crystal s
    let lock := fun k : Nat => if lockBitSet (statusAt O s.cfg 3 (k + 1)) then 2 else 4 + W
    let setPll := fun (f : Int) (k : Nat) =>
      if 63 < nintOf f x then 2 + W + W * s.cfg.setpllPre.length
      else 2 + 6 * W + lock (k + 2 + 5 * W + W * s.cfg.setpllPre.length) + W * s.cfg.setpllPre.length
    let pass := fun k : Nat =>
      W * s.cfg.calPre.length + setPll 56000000 (k + W * s.cfg.calPre.length) + W * s.cfg.calPost.length + 2
    let calibrateFilter := fun (first : Bool) (k : Nat) =>
      if first = true ∧ (calibrationPass O s.cfg x k).code ≠ 0 then pass k + pass (k + pass k) else pass k
    let initElectronics := fun k : Nat =>
      W * s.cfg.initElecPre.length + calibrateFilter true (k + W * s.cfg.initElecPre.length)
        + W * s.cfg.initElecPost.length
    let manualGain := W * (s.cfg.manualGainPre.length + 2)
    let autoGain := W * s.cfg.autoGainWrites.length
    let count := r.state.trace.length - s.trace.length
    s.trace.length ≤ r.state.trace.length ∧
    (∀ b a x w, i = .writeReg b a x w ∨ i = .wcReg b a x w ∨ i = .readReg b a w ∨ i = .readDemodReg b a → count = 1) ∧
    (∀ b a x m, i = .writeRegMask b a x m ∨ i = .wcRegMask b a x m → count = if m = 0xFF then 1 else 2) ∧
    (∀ p a x w, i = .writeDemodReg p a x w ∨ i = .wcDemodReg p a x w ∨ i = .openI2C ∨ i = .closeI2C → count = 2) ∧
    (∀ d a n, i = .readI2CReg d a ∨ i = .readI2CRegBuffer d a n ∨ i = .tunerReadRegBuffer a n ∨ i = .tunerCheck →
      count = 2) ∧
    (∀ d a x m bs, i = .writeI2CReg d a x ∨ i = .wcI2CReg d a x ∨ i = .writeI2CRegBuffer d a bs ∨
      i = .tunerWriteRegMask a x m → count = W) ∧
    (i = .tunerInitElectronics → count = initElectronics 0) ∧
    (i = .tunerInit → count = 27 * W + initElectronics (27 * W)) ∧
    (∀ f, i = .tunerSetMux f → count = 4 * W) ∧
    (i = .tunerGetPllLock false → count = 2) ∧ (i = .tunerGetPllLock true → count = lock 0) ∧
    (∀ f, i = .tunerSetPll f → count = setPll f 0) ∧
    (∀ f, i = .tunerSetFrequency f → count = 4 * W + setPll f (4 * W)) ∧
    (∀ first, i = .tunerCalibrateFilter first → count = calibrateFilter first 0) ∧
    (i = .tunerClose → count = 11 * W) ∧
    (i = .tunerSetAutoGain → count = autoGain) ∧ (∀ g, i = .tunerSetManualGain g → count = manualGain) ∧
    (i = .setGain none → count = 4 + autoGain) ∧ (∀ g, i = .setGain (some g) → count = 4 + manualGain) ∧
    (∀ f, i = .setCenterFrequency f → count = 4 + 4 * W + setPll (f + 3570000) (2 + 4 * W)) ∧
    (∀ n, i = .readSamples n → count = 1)
end

