-- ==== Sys2Proof/Laws/State.lean ====
section
/-! SUPPORT. What each state update leaves in each field. -/

namespace Sys2Proof.Machine

set_option Elab.async false

/-! ### `setShadow` -/

@[simp] theorem setShadow_cfg (s : State) (i : Fin 27) (b : Byte) : (setShadow s i b).cfg = s.cfg := rfl
@[simp] theorem setShadow_session (s : State) (i : Fin 27) (b : Byte) : (setShadow s i b).session = s.session := rfl
@[simp] theorem setShadow_claimed (s : State) (i : Fin 27) (b : Byte) : (setShadow s i b).claimed = s.claimed := rfl
@[simp] theorem setShadow_i2cOpen (s : State) (i : Fin 27) (b : Byte) : (setShadow s i b).i2cOpen = s.i2cOpen := rfl
@[simp] theorem setShadow_tunerPresent (s : State) (i : Fin 27) (b : Byte) : (setShadow s i b).tunerPresent = s.tunerPresent := rfl
@[simp] theorem setShadow_shadow (s : State) (i : Fin 27) (b : Byte) : (setShadow s i b).shadow = s.shadow.set i (some b) := rfl
@[simp] theorem setShadow_hasLock (s : State) (i : Fin 27) (b : Byte) : (setShadow s i b).hasLock = s.hasLock := rfl
@[simp] theorem setShadow_pllState (s : State) (i : Fin 27) (b : Byte) : (setShadow s i b).pllState = s.pllState := rfl
@[simp] theorem setShadow_xtalFreq (s : State) (i : Fin 27) (b : Byte) : (setShadow s i b).xtalFreq = s.xtalFreq := rfl
@[simp] theorem setShadow_ppm (s : State) (i : Fin 27) (b : Byte) : (setShadow s i b).ppm = s.ppm := rfl
@[simp] theorem setShadow_gainCfg (s : State) (i : Fin 27) (b : Byte) : (setShadow s i b).gainCfg = s.gainCfg := rfl
@[simp] theorem setShadow_streamReady (s : State) (i : Fin 27) (b : Byte) : (setShadow s i b).streamReady = s.streamReady := rfl
@[simp] theorem setShadow_inflight (s : State) (i : Fin 27) (b : Byte) : (setShadow s i b).inflight = s.inflight := rfl
@[simp] theorem setShadow_frames (s : State) (i : Fin 27) (b : Byte) : (setShadow s i b).frames = s.frames := rfl
@[simp] theorem setShadow_latch (s : State) (i : Fin 27) (b : Byte) : (setShadow s i b).latch = s.latch := rfl
@[simp] theorem setShadow_commands (s : State) (i : Fin 27) (b : Byte) : (setShadow s i b).commands = s.commands := rfl
@[simp] theorem setShadow_answers (s : State) (i : Fin 27) (b : Byte) : (setShadow s i b).answers = s.answers := rfl
@[simp] theorem setShadow_responses (s : State) (i : Fin 27) (b : Byte) : (setShadow s i b).responses = s.responses := rfl
@[simp] theorem setShadow_trace (s : State) (i : Fin 27) (b : Byte) : (setShadow s i b).trace = s.trace := rfl

/-! ### `entering` -/

@[simp] theorem entering_cfg (s : State) (op : Op) : (s.entering op).cfg = s.cfg := rfl
@[simp] theorem entering_session (s : State) (op : Op) : (s.entering op).session = s.session := rfl
@[simp] theorem entering_claimed (s : State) (op : Op) : (s.entering op).claimed = s.claimed := rfl
@[simp] theorem entering_i2cOpen (s : State) (op : Op) : (s.entering op).i2cOpen = s.i2cOpen := rfl
@[simp] theorem entering_tunerPresent (s : State) (op : Op) : (s.entering op).tunerPresent = s.tunerPresent := rfl
@[simp] theorem entering_shadow (s : State) (op : Op) : (s.entering op).shadow = s.shadow := rfl
@[simp] theorem entering_hasLock (s : State) (op : Op) : (s.entering op).hasLock = s.hasLock := rfl
@[simp] theorem entering_pllState (s : State) (op : Op) : (s.entering op).pllState = s.pllState := rfl
@[simp] theorem entering_xtalFreq (s : State) (op : Op) : (s.entering op).xtalFreq = s.xtalFreq := rfl
@[simp] theorem entering_ppm (s : State) (op : Op) : (s.entering op).ppm = s.ppm := rfl
@[simp] theorem entering_gainCfg (s : State) (op : Op) : (s.entering op).gainCfg = s.gainCfg := rfl
@[simp] theorem entering_streamReady (s : State) (op : Op) : (s.entering op).streamReady = s.streamReady := rfl
@[simp] theorem entering_inflight (s : State) (op : Op) : (s.entering op).inflight = s.inflight := rfl
@[simp] theorem entering_frames (s : State) (op : Op) : (s.entering op).frames = .enter op :: s.frames := rfl
@[simp] theorem entering_latch (s : State) (op : Op) : (s.entering op).latch = .unit := rfl
@[simp] theorem entering_commands (s : State) (op : Op) : (s.entering op).commands = s.commands := rfl
@[simp] theorem entering_answers (s : State) (op : Op) : (s.entering op).answers = s.answers := rfl
@[simp] theorem entering_responses (s : State) (op : Op) : (s.entering op).responses = s.responses := rfl
@[simp] theorem entering_trace (s : State) (op : Op) : (s.entering op).trace = s.trace := rfl

/-! ### `issue` -/

@[simp] theorem issue_cfg (p : Primitive) (s : State) : (issue p s).cfg = s.cfg := rfl
@[simp] theorem issue_session (p : Primitive) (s : State) : (issue p s).session = s.session := rfl
@[simp] theorem issue_claimed (p : Primitive) (s : State) : (issue p s).claimed = s.claimed := rfl
@[simp] theorem issue_i2cOpen (p : Primitive) (s : State) : (issue p s).i2cOpen = s.i2cOpen := rfl
@[simp] theorem issue_tunerPresent (p : Primitive) (s : State) : (issue p s).tunerPresent = s.tunerPresent := rfl
@[simp] theorem issue_shadow (p : Primitive) (s : State) : (issue p s).shadow = s.shadow := rfl
@[simp] theorem issue_hasLock (p : Primitive) (s : State) : (issue p s).hasLock = s.hasLock := rfl
@[simp] theorem issue_pllState (p : Primitive) (s : State) : (issue p s).pllState = s.pllState := rfl
@[simp] theorem issue_xtalFreq (p : Primitive) (s : State) : (issue p s).xtalFreq = s.xtalFreq := rfl
@[simp] theorem issue_ppm (p : Primitive) (s : State) : (issue p s).ppm = s.ppm := rfl
@[simp] theorem issue_gainCfg (p : Primitive) (s : State) : (issue p s).gainCfg = s.gainCfg := rfl
@[simp] theorem issue_streamReady (p : Primitive) (s : State) : (issue p s).streamReady = s.streamReady := rfl
@[simp] theorem issue_inflight (p : Primitive) (s : State) : (issue p s).inflight = some p := rfl
@[simp] theorem issue_frames (p : Primitive) (s : State) : (issue p s).frames = s.frames := rfl
@[simp] theorem issue_latch (p : Primitive) (s : State) : (issue p s).latch = s.latch := rfl
@[simp] theorem issue_commands (p : Primitive) (s : State) : (issue p s).commands = s.commands := rfl
@[simp] theorem issue_answers (p : Primitive) (s : State) : (issue p s).answers = s.answers := rfl
@[simp] theorem issue_responses (p : Primitive) (s : State) : (issue p s).responses = s.responses := rfl
@[simp] theorem issue_trace (p : Primitive) (s : State) : (issue p s).trace = s.trace ++ [p] := rfl

/-! ### `respond` -/

@[simp] theorem respond_cfg (v : Value) (s : State) : (respond v s).cfg = s.cfg := rfl
@[simp] theorem respond_session (v : Value) (s : State) : (respond v s).session = s.session := rfl
@[simp] theorem respond_claimed (v : Value) (s : State) : (respond v s).claimed = s.claimed := rfl
@[simp] theorem respond_i2cOpen (v : Value) (s : State) : (respond v s).i2cOpen = s.i2cOpen := rfl
@[simp] theorem respond_tunerPresent (v : Value) (s : State) : (respond v s).tunerPresent = s.tunerPresent := rfl
@[simp] theorem respond_shadow (v : Value) (s : State) : (respond v s).shadow = s.shadow := rfl
@[simp] theorem respond_hasLock (v : Value) (s : State) : (respond v s).hasLock = s.hasLock := rfl
@[simp] theorem respond_pllState (v : Value) (s : State) : (respond v s).pllState = s.pllState := rfl
@[simp] theorem respond_xtalFreq (v : Value) (s : State) : (respond v s).xtalFreq = s.xtalFreq := rfl
@[simp] theorem respond_ppm (v : Value) (s : State) : (respond v s).ppm = s.ppm := rfl
@[simp] theorem respond_gainCfg (v : Value) (s : State) : (respond v s).gainCfg = s.gainCfg := rfl
@[simp] theorem respond_streamReady (v : Value) (s : State) : (respond v s).streamReady = s.streamReady := rfl
@[simp] theorem respond_inflight (v : Value) (s : State) : (respond v s).inflight = s.inflight := rfl
@[simp] theorem respond_frames (v : Value) (s : State) : (respond v s).frames = [] := rfl
@[simp] theorem respond_latch (v : Value) (s : State) : (respond v s).latch = .unit := rfl
@[simp] theorem respond_commands (v : Value) (s : State) : (respond v s).commands = s.commands := rfl
@[simp] theorem respond_answers (v : Value) (s : State) : (respond v s).answers = s.answers := rfl
@[simp] theorem respond_responses (v : Value) (s : State) : (respond v s).responses = s.responses ++ [.ok v] := rfl
@[simp] theorem respond_trace (v : Value) (s : State) : (respond v s).trace = s.trace := rfl

/-! ### `errorEntry` -/

@[simp] theorem errorEntry_cfg (e : Error) (s : State) : (errorEntry e s).cfg = s.cfg := rfl
@[simp] theorem errorEntry_session (e : Error) (s : State) : (errorEntry e s).session = if isBulkFailure e && inReadSamples s.frames then s.session else .failed := rfl
@[simp] theorem errorEntry_claimed (e : Error) (s : State) : (errorEntry e s).claimed = s.claimed := rfl
@[simp] theorem errorEntry_i2cOpen (e : Error) (s : State) : (errorEntry e s).i2cOpen = s.i2cOpen := rfl
@[simp] theorem errorEntry_tunerPresent (e : Error) (s : State) : (errorEntry e s).tunerPresent = s.tunerPresent := rfl
@[simp] theorem errorEntry_shadow (e : Error) (s : State) : (errorEntry e s).shadow = s.shadow := rfl
@[simp] theorem errorEntry_hasLock (e : Error) (s : State) : (errorEntry e s).hasLock = s.hasLock := rfl
@[simp] theorem errorEntry_pllState (e : Error) (s : State) : (errorEntry e s).pllState = s.pllState := rfl
@[simp] theorem errorEntry_xtalFreq (e : Error) (s : State) : (errorEntry e s).xtalFreq = s.xtalFreq := rfl
@[simp] theorem errorEntry_ppm (e : Error) (s : State) : (errorEntry e s).ppm = s.ppm := rfl
@[simp] theorem errorEntry_gainCfg (e : Error) (s : State) : (errorEntry e s).gainCfg = s.gainCfg := rfl
@[simp] theorem errorEntry_streamReady (e : Error) (s : State) : (errorEntry e s).streamReady = false := rfl
@[simp] theorem errorEntry_inflight (e : Error) (s : State) : (errorEntry e s).inflight = none := rfl
@[simp] theorem errorEntry_frames (e : Error) (s : State) : (errorEntry e s).frames = [] := rfl
@[simp] theorem errorEntry_latch (e : Error) (s : State) : (errorEntry e s).latch = .unit := rfl
@[simp] theorem errorEntry_commands (e : Error) (s : State) : (errorEntry e s).commands = s.commands := rfl
@[simp] theorem errorEntry_answers (e : Error) (s : State) : (errorEntry e s).answers = s.answers := rfl
@[simp] theorem errorEntry_responses (e : Error) (s : State) : (errorEntry e s).responses = s.responses ++ [.err e] := rfl
@[simp] theorem errorEntry_trace (e : Error) (s : State) : (errorEntry e s).trace = s.trace := rfl

end Sys2Proof.Machine
end

