-- ==== Sys2Proof/Laws/Steps.lean ====
section
/-! SUPPORT. What a run of statements and a step can do, and how runs of statements make up steps. -/

namespace Sys2Proof.Machine

set_option Elab.async false

/-! ### Statements -/

/-- A property of the state a run of statements leaves. -/
def Act.All (P : State → Prop) : Act → Prop
  | .prim _ _ t => P t
  | .call _ _ t => P t
  | .ret _ t => P t
  | .raise _ t => P t
  | .fault _ => True
@[simp] theorem Act.all_prim (P) (p k t) : (Act.prim p k t).All P ↔ P t := Iff.rfl
@[simp] theorem Act.all_call (P) (p k t) : (Act.call p k t).All P ↔ P t := Iff.rfl
@[simp] theorem Act.all_ret (P) (v t) : (Act.ret v t).All P ↔ P t := Iff.rfl
@[simp] theorem Act.all_raise (P) (e t) : (Act.raise e t).All P ↔ P t := Iff.rfl
@[simp] theorem Act.all_fault (P) (f) : (Act.fault f).All P ↔ True := Iff.rfl
theorem Stop.act_all (P : State → Prop) (s) (h : P s) (x : Stop) : (x.act s).All P := by cases x <;> simp [Stop.act, h]

/-- A batch ends at an unknown record in the fault of an operand out of range or in `UnsupportedOperation`. -/
theorem stopUnknown_cases (c : WriteCommand) (s : State) :
    stopUnknown c s = .fault .valueOutOfRange ∨ stopUnknown c s = .raise .unsupportedOperation s := by
  unfold stopUnknown
  repeat' split
  all_goals first | exact .inl rfl | exact .inr rfl

/-- The fields that no statement of an operation writes. -/
structure Kept (s t : State) : Prop where
  cfg : t.cfg = s.cfg
  ppm : t.ppm = s.ppm
  gainCfg : t.gainCfg = s.gainCfg
  inflight : t.inflight = s.inflight
  frames : t.frames = s.frames
  commands : t.commands = s.commands
  answers : t.answers = s.answers
  responses : t.responses = s.responses
  trace : t.trace = s.trace
/-- The statements of an operation write only S0 to S7 and S10; the ports, the position and the configuration are the
sequencer's. -/
theorem resume_kept (f : Frame) (v : Value) (s : State) : (resume f v s).All (Kept s) := by
  have hs : Kept s s := by constructor <;> rfl
  have hu : ∀ c, (stopUnknown c s).All (Kept s) := fun c => by
    rcases stopUnknown_cases c s with e | e <;> simp [e, hs]
  cases f with
  | enter op =>
    cases op <;>
    simp only [resume, enterOp, enterWriteReg, enterReadReg, enterWriteRegMask, enterWriteDemodReg, enterReadDemodReg, enterOpenI2C, enterCloseI2C, enterReadI2CReg, enterWriteI2CReg, enterReadI2CRegBuffer, enterWriteI2CRegBuffer, loopWriteEach, enterClaimInterface, enterReleaseInterface, enterReadBulk, enterTunerCheck, enterTunerInit, enterInitElectronics, enterSetFrequency, enterSetMux, enterSetPll, enterGetPllLock, enterCalibrateFilter, enterSetAutoGain, enterSetManualGain, enterTunerReadRegBuffer, enterTunerWriteRegMask, enterTunerClose, loopTunerBatch, enterOpen, enterSetSampleRate, enterSetCenterFrequency, enterSetGain, enterSetGainInner, enterResetBuffer, enterReadSamples, enterClose, requireTuner, requireSession, loopTunerInit, loopSetMux, loopGetPllLock, loopCalibrate, loopTunerClose, callMasked] <;>
    repeat' split
    all_goals first | exact hs | exact hu _ | trivial | (exact Stop.act_all _ _ hs _) | (constructor <;> rfl)
  | _ =>
    simp only [resume, returnDecoded, afterWriteRegMaskRead, afterWriteDemodRegSent, afterOpenI2C, afterCloseI2C, afterReadI2CRegSelected, afterReadI2CRegData, afterWriteI2CRegSelected, afterReadI2CRegBufferSelected, returnBytes, afterWriteI2CRegBufferSelected, loopWriteEach, afterClaimInterface, afterReleaseInterface, afterTunerCheckRead, loopTunerInit, afterInitElectronicsPre, afterInitElectronicsCalibrated, afterSetFrequencyMux, afterSetFrequencyPll, loopSetMux, callMasked, afterSetPllPre, afterSetPllFineTune, afterSetPllDivider, afterSetPllNisi, afterSetPllFrac, afterSetPllSdmHi, afterSetPllSdmLo, afterSetPllLock, afterSetPllPostLock, afterGetPllLockRead, loopGetPllLock, afterCalibratePre, afterCalibrateSynth, afterCalibratePost, afterCalibrateStatus, loopCalibrate, loopTunerBatch, afterReadRegBuffer, loopTunerClose, afterSetManualGainPre, afterSetManualGainLna, afterOpenUsb, afterOpenClaim, afterOpenDemod, afterOpenRepeater, afterOpenProbed, afterOpenIf, afterOpenInit, afterOpenGain, afterOpenCloseI2C, afterSetSampleRateRatio, afterSetSampleRatePpm, afterSetSampleRateReset, afterSetCenterFrequencyOpened, afterSetCenterFrequencyTuned, afterSetCenterFrequencyClosed, afterSetGainOpened, afterSetGainApplied, afterResetBuffer, afterCloseOpened, afterCloseTuner, afterCloseRepeater, afterCloseReleased]
    all_goals repeat' split
    all_goals first | exact hs | exact hu _ | trivial | (exact Stop.act_all _ _ hs _) | (constructor <;> rfl)

/-! ### Transport primitives -/

/-- The primitive in flight is settled: the operation resumes with its result, or its error leaves the command. -/
theorem transact_ok {p : Primitive} {s : State} {a : Answer} {rest : List Answer} {v : Value}
    (ha : s.answers = a :: rest) (hv : primitiveResult p a = .ok v) :
    transact p s = { s with inflight := none, trace := s.trace ++ [p], answers := rest, latch := v } := by
  simp [transact, takeAnswer, nextAnswer, issue, settle, ha, hv]

/-- A failed primitive's error leaves the command at once (R63, R132). -/
theorem transact_error {p : Primitive} {s : State} {a : Answer} {rest : List Answer} {e : Error}
    (ha : s.answers = a :: rest) (he : primitiveResult p a = .error e) :
    transact p s = errorEntry e { s with inflight := none, trace := s.trace ++ [p], answers := rest } := by
  simp [transact, takeAnswer, nextAnswer, issue, settle, ha, he]

/-- What a primitive can do to the state: it is on the record, at most one answer is taken, and either the operation
resumes or an error has left the command. -/
theorem transact_cases (p : Primitive) (s : State) :
    (∃ v, transact p s =
      { s with inflight := none, trace := s.trace ++ [p], answers := s.answers.tail, latch := v }) ∨
    (∃ e, transact p s =
      errorEntry e { s with inflight := none, trace := s.trace ++ [p], answers := s.answers.tail }) := by
  simp only [transact, takeAnswer, settle]
  split
  · exact .inl ⟨_, rfl⟩
  · exact .inr ⟨_, rfl⟩

/-! ### Runs of statements -/

/-- A run of statements leads to an end of the command. -/
inductive Ends : State → Host.Outcome State Fault Refusal → Prop
  | more {s t o} (h : micro s = .more t) (ht : Ends t o) : Ends s o
  | done {s t o} (h : micro s = .done t) (hf : t.frames ≠ []) (ht : Ends t o) : Ends s o
  | finish {s t} (h : micro s = .done t) (hf : t.frames = []) : Ends s (.next t)
  | fault {s f} (h : micro s = .fault f) : Ends s (.fault f)

/-- What stays fixed along the runs of statements of a command. -/
structure Fixed (s t : State) : Prop where
  cfg : t.cfg = s.cfg
  ppm : t.ppm = s.ppm
  gainCfg : t.gainCfg = s.gainCfg
  commands : t.commands = s.commands
  inflight : s.inflight = none → t.inflight = none

theorem micro_fixed {s t : State} (h : micro s = .more t ∨ micro s = .done t) : Fixed s t := by
  unfold micro at h
  split at h
  · simp at h; subst h; exact ⟨rfl, rfl, rfl, rfl, id⟩
  · rename_i f fs hf
    have hk := resume_kept f s.latch { s with frames := fs }
    generalize resume f s.latch { s with frames := fs } = a at h hk
    cases a with
    | prim p k u =>
      simp only [Act.move, Act.all_prim] at h hk
      rcases h with h | h
      · cases h
      · injection h with h
        rcases transact_cases p { u with frames := k :: u.frames } with ⟨v, e⟩ | ⟨x, e⟩ <;>
          rw [e] at h <;> subst h <;> exact ⟨hk.cfg, hk.ppm, hk.gainCfg, hk.commands, fun _ => rfl⟩
    | call op k u =>
      simp only [Act.move, Act.all_call] at h hk
      rcases h with h | h
      · injection h with h; subst h; exact ⟨hk.cfg, hk.ppm, hk.gainCfg, hk.commands, fun z => hk.inflight.trans z⟩
      · cases h
    | ret v u =>
      simp only [Act.move, Act.all_ret, returnValue] at h hk
      split at h <;> rcases h with h | h <;> try cases h
      all_goals exact ⟨hk.cfg, hk.ppm, hk.gainCfg, hk.commands, fun z => hk.inflight.trans z⟩
    | raise e u =>
      simp only [Act.move, Act.all_raise] at h hk
      rcases h with h | h
      · cases h
      · injection h with h; subst h; exact ⟨hk.cfg, hk.ppm, hk.gainCfg, hk.commands, fun _ => rfl⟩
    | fault f => simp [Act.move] at h

/-- A run of statements that goes on leaves an operation in progress. -/
theorem micro_more_frames {s t : State} (h : micro s = .more t) : t.frames ≠ [] := by
  unfold micro at h
  split at h
  · cases h
  · rename_i f fs hf
    generalize resume f s.latch { s with frames := fs } = a at h
    cases a with
    | ret v u =>
      simp only [Act.move, returnValue] at h
      split at h
      · cases h
      · rename_i hu; injection h with h; subst h; rw [hu]; exact List.cons_ne_nil _ _
    | call op k u => simp only [Act.move] at h; injection h with h; subst h; exact List.cons_ne_nil _ _
    | prim p k u => simp [Act.move] at h
    | raise e u => simp [Act.move] at h
    | fault f => simp [Act.move] at h

theorem Fixed.configured {s t : State} (h : Fixed s t) : configured t = configured s := by
  simp [Sys2Proof.Machine.configured, h.cfg, h.ppm]

/-- A record at the head of a batch is run as its instruction. -/
theorem exec_record {c : WriteCommand} {i : Instr} (hi : c.instr = some i) (s : State) :
    ∃ op, dispatchOp c = some op ∧ exec i s = begin op s := by
  cases c <;> simp only [WriteCommand.instr, Option.some.injEq, reduceCtorEq] at hi <;> subst hi <;>
    exact ⟨_, rfl, rfl⟩

/-- A frame that is not at the head of a batch is resumed. -/
theorem fetch_resume {s : State} {f : Frame} {fs : List Frame} (hi : s.inflight = none) (hs : s.frames = f :: fs)
    (hf : ∀ c rest, f ≠ .writeEachNext (c :: rest)) : fetch s = .resume := by
  unfold fetch
  rw [hi, hs]
  cases f with
  | writeEachNext cs => cases cs with
    | nil => rfl
    | cons c rest => exact absurd rfl (hf c rest)
  | _ => rfl

/-- A step of a command in progress is a number of runs of statements. -/
theorem step_in_progress {s : State} (hc : configured s = true) (hi : s.inflight = none) (hf : s.frames ≠ []) :
    ∃ n, step s = runMoves (n + 1) s := by
  obtain ⟨f, fs, hs⟩ := List.exists_cons_of_ne_nil hf
  by_cases hb : ∃ c rest, f = .writeEachNext (c :: rest)
  · obtain ⟨c, rest, rfl⟩ := hb
    cases hci : c.instr with
    | none =>
      refine ⟨63, ?_⟩
      simp only [step, hc, if_true, fetch, hi, hs, hci]
      rfl
    | some i =>
      obtain ⟨op, ho, he⟩ := exec_record hci { s with frames := .writeEachNext rest :: fs }
      refine ⟨64, ?_⟩
      have : step s = exec i { s with frames := .writeEachNext rest :: fs } := by
        simp only [step, hc, if_true, fetch, hi, hs, hci]
      rw [this, he, runMoves]
      simp only [micro, hs, resume, loopWriteEach, ho, Act.move]
      rfl
  · refine ⟨63, ?_⟩
    have h := fetch_resume hi hs (fun c rest h => hb ⟨c, rest, h⟩)
    simp only [step, hc, if_true, h]
    rfl

/-! ### Reaching an end -/

theorem reaches_cons {s t : State} {o} (h : step s = .next t) (ht : Reaches (.next t) o) : Reaches (.next s) o := by
  rcases ht with rfl | ⟨u, k, hu, hk⟩
  · exact .inr ⟨s, 1, rfl, by simp [Host.Core.run, Sys2Proof.core, h]⟩
  · cases hu
    exact .inr ⟨s, k + 1, rfl, by simpa [Host.Core.run, Sys2Proof.core, h] using hk⟩

theorem reaches_step {s : State} {o} (h : Reaches (step s) o) : Reaches (.next s) o := by
  rcases h with rfl | ⟨t, k, ht, hk⟩
  · refine .inr ⟨s, 1, rfl, ?_⟩
    simp only [Host.Core.run, Sys2Proof.core]
    cases step s <;> rfl
  · exact reaches_cons ht (.inr ⟨t, k, rfl, hk⟩)

/-- The runs of statements that lead to an end lead there in steps, wherever the steps are cut. -/
theorem Ends.reaches {s : State} {o} (h : Ends s o) (hc : configured s = true) (hi : s.inflight = none)
    (hf : s.frames ≠ []) (n : Nat) : Reaches (runMoves n s) o := by
  have zero : ∀ s o, configured s = true → s.inflight = none → s.frames ≠ [] →
      (∀ n, Reaches (runMoves (n + 1) s) o) → Reaches (runMoves 0 s) o := by
    intro s o hc hi hf h
    obtain ⟨n, hn⟩ := step_in_progress hc hi hf
    exact reaches_step (hn ▸ h n)
  suffices ∀ n, Reaches (runMoves (n + 1) s) o by
    cases n with
    | zero => exact zero s o hc hi hf this
    | succ n => exact this n
  induction h with
  | @more s t o h ht ih =>
    intro n
    have hx := micro_fixed (.inl h)
    have hc' := hx.configured.trans hc
    have hi' := hx.inflight hi
    have hf' := micro_more_frames h
    simp only [runMoves, h]
    cases n with
    | zero => exact zero t o hc' hi' hf' (ih hc' hi' hf')
    | succ n => exact ih hc' hi' hf' n
  | @done s t o h hf' ht ih =>
    intro n
    have hx := micro_fixed (.inr h)
    have hc' := hx.configured.trans hc
    have hi' := hx.inflight hi
    simp only [runMoves, h]
    exact zero t o hc' hi' hf' (ih hc' hi' hf')
  | finish h _ => intro n; simp only [runMoves, h]; exact .inl rfl
  | fault h => intro n; simp only [runMoves, h]; exact .inl rfl

end Sys2Proof.Machine
end

