-- ==== Sys2Proof/Laws/Calls.lean ====
section
/-! SUPPORT. What one run of statements of a frame can lead to: the call structure, and the state items it moves. -/

namespace Sys2Proof.Machine

set_option Elab.async false

/-- What the statements of frame `f`, run from `s`, can lead to: which frame of the same operation waits for which
operation, and how the session, the crystal frequency, the tuner flag and the lock move. -/
def Act.Within (f : Frame) (s : State) : Act → Prop
  | .prim _ k u =>
    k.kind = f.kind ∧ u.session = s.session ∧ (∀ w, k.checkedSession = some w → f.checkedSession = some w) ∧
    u.xtalFreq = s.xtalFreq ∧ u.tunerPresent = s.tunerPresent ∧ (k.pastCrystal = true → f.pastCrystal = true) ∧
    u.hasLock = s.hasLock ∧ u.pllState = s.pllState ∧ f.isAttempt = false ∧ k.isAttempt = false ∧
    f.isController = false
  | .call op k u =>
    k.kind = f.kind ∧ k.awaits op.kind = true ∧ u.session = s.session ∧
    (∀ w, k.checkedSession = some w → f.checkedSession = some w ∨ u.session = w) ∧
    (u.xtalFreq = s.xtalFreq ∧ (u.tunerPresent = s.tunerPresent ∨ f.pastCrystal = true) ∧
        (k.pastCrystal = true → f.pastCrystal = true) ∨
      u.xtalFreq = some (correctedCrystal s.ppm)) ∧
    (k.isAttempt = true ∨ u.hasLock = s.hasLock ∧ u.pllState = s.pllState ∧ f.isAttempt = false) ∧
    (f.isController = true → sessionLive u.session = true ∨ ∃ w, f.checkedSession = some w)
  | .ret _ u =>
    (u.session = s.session ∨ f.checkedSession = some .idle ∧ u.session = .opened ∨
      f.checkedSession = some .opened ∧ u.session = .closed) ∧
    u.xtalFreq = s.xtalFreq ∧ u.tunerPresent = s.tunerPresent ∧
    (lockConsistent u = true ∨ u.hasLock = s.hasLock ∧ u.pllState = s.pllState ∧ f.isAttempt = false) ∧
    (f.isController = true → ∃ w, f.checkedSession = some w)
  | .raise e u =>
    isBulkFailure e = false ∧ u.session = s.session ∧ u.xtalFreq = s.xtalFreq ∧ u.tunerPresent = s.tunerPresent ∧
    (f.isController = true → ∃ w, f.checkedSession = some w)
  | .fault _ => True

/-- The operations a record is dispatched to. -/
theorem dispatchOp_cases {c : WriteCommand} {op : Op} (h : dispatchOp c = some op) :
    (∃ a b v w, op = .writeReg a b v w) ∨ (∃ a b v m, op = .writeRegMask a b v m) ∨
      (∃ p a v w, op = .writeDemodReg p a v w) ∨ (∃ d a v, op = .writeI2CReg d a v) := by
  cases c <;> simp [dispatchOp] at h <;> subst h <;> simp

theorem encodeStop_within {f : Frame} {s : State} (hf : f.isController = false) {v w : Int} {o : ByteOrder} (x : Stop)
    (h : encodeValue v w o = .error x) : (x.act s).Within f s := by
  unfold encodeValue at h
  split_ifs at h
  · cases o <;> cases h
  · cases h; trivial
  · cases h; simp [Stop.act, Act.Within, isBulkFailure, hf]

theorem decodeStop_within {f : Frame} {s : State} (hf : f.isController = false) {v : List Byte} {o : ByteOrder}
    (x : Stop) (h : decodeValue v o = .error x) : (x.act s).Within f s := by
  unfold decodeValue at h
  split_ifs at h
  · cases o <;> cases h
  · cases h; simp [Stop.act, Act.Within, isBulkFailure, hf]

/-- The statements of a batch call the operation the record at its head is dispatched to. -/
theorem loopWriteEach_within (f : Frame) (hk : f.kind = .writeEach) (ha : f.isAttempt = false)
    (cs : List WriteCommand) (s : State) : (loopWriteEach cs s).Within f s := by
  have hc : f.isController = false := by simp [Frame.isController, hk]
  unfold loopWriteEach
  split
  · simp [Act.Within, ha, hc]
  · split
    · rename_i op hop
      rcases dispatchOp_cases hop with ⟨_, _, _, _, rfl⟩ | ⟨_, _, _, _, rfl⟩ | ⟨_, _, _, _, rfl⟩ | ⟨_, _, _, rfl⟩ <;>
      exact ⟨hk.symm, rfl, rfl, fun w h => (by cases h), .inl ⟨rfl, .inl rfl, fun h => (by cases h)⟩, .inr ⟨rfl, rfl, ha⟩,
        fun h => (by rw [hc] at h; cases h)⟩
    · rename_i c _ _ _
      rcases stopUnknown_cases c s with e | e <;> simp [e, Act.Within, isBulkFailure, hc]

/-- The first statements of every operation stay within their frame. -/
theorem enterOp_within (op : Op) (s : State) : (enterOp op s).Within (.enter op) s := by
  cases op with
  | writeEach cs => exact loopWriteEach_within _ rfl rfl cs s
  | _ =>
    simp only [enterOp, enterWriteReg, enterReadReg, enterWriteRegMask, enterWriteDemodReg, enterReadDemodReg,
      enterOpenI2C, enterCloseI2C, enterReadI2CReg, enterWriteI2CReg, enterReadI2CRegBuffer, enterWriteI2CRegBuffer,
      enterClaimInterface, enterReleaseInterface, enterReadBulk, enterTunerCheck, enterTunerInit, enterInitElectronics,
      enterSetFrequency, enterSetMux, enterSetPll, enterGetPllLock, enterCalibrateFilter, enterSetAutoGain,
      enterSetManualGain, enterTunerReadRegBuffer, enterTunerWriteRegMask, enterTunerClose, loopTunerBatch, enterOpen,
      enterSetSampleRate, enterSetCenterFrequency, enterSetGain, enterSetGainInner, enterResetBuffer, enterReadSamples,
      enterClose, requireTuner, requireSession, loopTunerInit, loopSetMux, loopGetPllLock, loopCalibrate,
      loopTunerClose, callMasked]
    repeat' split
    all_goals first
      | trivial
      | exact encodeStop_within rfl _ (by assumption)
      | simp [Act.Within, Frame.kind, Op.kind, Frame.awaits, Frame.checkedSession, Frame.pastCrystal, Frame.isAttempt,
          Frame.isController, sessionLive, isBulkFailure, setShadow, *]

/-- The statements of every frame stay within it. -/
theorem resume_within (f : Frame) (v : Value) (s : State) : (resume f v s).Within f s := by
  cases f with
  | enter op => exact enterOp_within op s
  | writeEachNext cs => exact loopWriteEach_within _ rfl rfl cs s
  | _ =>
    simp only [resume, returnDecoded, afterWriteRegMaskRead, afterWriteDemodRegSent, afterOpenI2C, afterCloseI2C,
      afterReadI2CRegSelected, afterReadI2CRegData, afterWriteI2CRegSelected, afterReadI2CRegBufferSelected,
      returnBytes, afterWriteI2CRegBufferSelected, afterClaimInterface, afterReleaseInterface, afterTunerCheckRead,
      loopTunerInit, afterInitElectronicsPre, afterInitElectronicsCalibrated, afterSetFrequencyMux,
      afterSetFrequencyPll, loopSetMux, callMasked, afterSetPllPre, afterSetPllFineTune, afterSetPllDivider,
      afterSetPllNisi, afterSetPllFrac, afterSetPllSdmHi, afterSetPllSdmLo, afterSetPllLock, afterSetPllPostLock,
      afterGetPllLockRead, loopGetPllLock, afterCalibratePre, afterCalibrateSynth, afterCalibratePost,
      afterCalibrateStatus, loopCalibrate, loopTunerBatch, afterReadRegBuffer, loopTunerClose, afterSetManualGainPre,
      afterSetManualGainLna, afterOpenUsb, afterOpenClaim, afterOpenDemod, afterOpenRepeater, afterOpenProbed,
      afterOpenIf, afterOpenInit, afterOpenGain, afterOpenCloseI2C, afterSetSampleRateRatio, afterSetSampleRatePpm,
      afterSetSampleRateReset, afterSetCenterFrequencyOpened, afterSetCenterFrequencyTuned,
      afterSetCenterFrequencyClosed, afterSetGainOpened, afterSetGainApplied, afterResetBuffer, afterCloseOpened,
      afterCloseTuner, afterCloseRepeater, afterCloseReleased]
    repeat' split
    all_goals first
      | trivial
      | exact decodeStop_within rfl _ (by assumption)
      | simp [Act.Within, Frame.kind, Op.kind, Frame.awaits, Frame.checkedSession, Frame.pastCrystal, Frame.isAttempt,
          Frame.isController, sessionLive, isBulkFailure, setShadow, lockConsistent, *]

/-! ### Where a step starts -/

/-- Where the runs of statements of a step start: at the operation in progress, at the record at the head of a batch, or
at the first statement of the command the port holds. -/
inductive Starts (s u : State) : Prop
  | resume (h : s.frames ≠ []) (e : u = s)
  | record (op : Op) (c : WriteCommand) (cs : List WriteCommand) (fs : List Frame) (ho : dispatchOp c = some op)
      (h : s.frames = .writeEachNext (c :: cs) :: fs)
      (e : u = { s with frames := .enter op :: .writeEachNext cs :: fs, latch := .unit })
  | internal (r : Record) (rest : List Record) (op : Op) (i : Instr) (h : s.frames = [])
      (hc : s.commands = r :: rest) (hd : decodeCmd r = .instr i) (hx : ∀ u, exec i u = beginInternal op u)
      (hl : sessionLive s.session = true)
      (e : u = { s with frames := [.enter op], latch := .unit, commands := rest })
  | external (r : Record) (rest : List Record) (op : Op) (i : Instr) (h : s.frames = [])
      (hc : s.commands = r :: rest) (hd : decodeCmd r = .instr i) (hi : isExternal i = true)
      (hx : ∀ u, exec i u = begin op u) (hq : (Frame.enter op).isController = true)
      (e : u = { s with frames := [.enter op], latch := .unit, commands := rest })

/-- A record of the command port is no element of a batch. -/
theorem decodeCmd_not_batch {r : Record} {i : Instr} (h : decodeCmd r = .instr i) : i.isBatchRecord = false := by
  unfold decodeCmd decodeCanonical at h
  split at h
  all_goals try contradiction
  all_goals repeat' split at h
  all_goals first | contradiction | (cases h; rfl)

/-- A step that goes on, with nothing in flight, waits for a command or is a run from one of those starts. -/
theorem step_starts {s t : State} (hi : s.inflight = none) (h : step s = .next t) : configured s = true ∧
    (t = s ∧ s.frames = [] ∧ s.commands = [] ∨ ∃ u, Starts s u ∧ runMoves MOVE_BOUND u = .next t) := by
  have hc : configured s = true := by by_contra hh; simp [step, hh] at h
  refine ⟨hc, ?_⟩
  simp only [step, hc, if_true, fetch, hi] at h
  cases hf : s.frames with
  | nil =>
    simp only [hf, fetchCommand] at h
    cases hcm : s.commands with
    | nil => simp only [hcm] at h; cases h; exact .inl ⟨rfl, rfl, rfl⟩
    | cons r rest =>
      simp only [hcm] at h
      cases hd : decodeCmd r with
      | reserved => simp only [hd] at h; cases h
      | malformed => simp only [hd] at h; cases h
      | instr i =>
        simp only [hd] at h
        right
        have hb := decodeCmd_not_batch hd
        by_cases he : isExternal i = true
        · have : ∃ op, (∀ u, exec i u = begin op u) ∧ (Frame.enter op).isController = true := by
            cases i <;> simp [isExternal] at he <;> exact ⟨_, fun _ => rfl, rfl⟩
          obtain ⟨op, ho, hq⟩ := this
          rw [ho] at h
          exact ⟨_, .external r rest op i hf hcm hd he ho hq rfl, by simpa [begin, advance, State.entering, hf] using h⟩
        · have : ∃ op, ∀ u, exec i u = beginInternal op u := by
            cases i <;> simp [isExternal, Instr.isBatchRecord] at he hb <;> exact ⟨_, fun _ => rfl⟩
          obtain ⟨op, ho⟩ := this
          rw [ho] at h
          unfold beginInternal at h
          split at h
          · rename_i hl
            rw [Bool.and_eq_true] at hl
            exact ⟨_, .internal r rest op i hf hcm hd ho hl.2 rfl, by simpa [begin, advance, State.entering, hf] using h⟩
          · cases h
  | cons f fs =>
    right
    by_cases hb : ∃ c rest i, f = .writeEachNext (c :: rest) ∧ c.instr = some i
    · obtain ⟨c, rest, i, rfl, hci⟩ := hb
      simp only [hf, hci] at h
      obtain ⟨op, ho, hx⟩ := exec_record hci { s with frames := .writeEachNext rest :: fs, inflight := none }
      rw [hx, ← hi] at h
      exact ⟨_, .record op c rest fs ho hf rfl, h⟩
    · refine ⟨s, .resume (by simp [hf]) rfl, ?_⟩
      rw [hf] at h
      cases f with
      | writeEachNext cs => cases cs with
        | nil => exact h
        | cons c cs =>
          cases hci : c.instr with
          | none => simp only [hci] at h; exact h
          | some i => exact absurd ⟨c, cs, i, rfl, hci⟩ hb
      | _ => exact h

end Sys2Proof.Machine
end

