-- ==== Sys2Proof/Laws/Configuration.lean ====
section
/-! SUPPORT. What the formulas of a configuration can express (R7): on a bounded range, every function; and that a batch
function whose templates name no raw tuner write gives none (R85). -/

namespace Sys2Proof.Machine

set_option Elab.async false

/-- The template whose fields are constants. -/
def constantTemplate : WriteCommand → WriteTemplate
  | .reg b r v w => .reg (.const b) (.const r) (.const v) (.const w)
  | .regMask b r v m => .regMask (.const b) (.const r) (.const v) (.const m)
  | .demodReg p a v w => .demodReg (.const p) (.const a) (.const v) (.const w)
  | .i2cReg d r v => .i2cReg d (.const r) (.const v)
  | .unknown tag fields => .unknown tag fields

@[simp] theorem evalTemplate_constantTemplate (x : Int) (c : WriteCommand) :
    evalTemplate x (constantTemplate c) = c := by
  cases c <;> rfl

/-- The batch that does not depend on its argument. -/
def constantBatch (cs : List WriteCommand) : BatchFormula := cs.foldr (fun c f => .cons (constantTemplate c) f) .nil

@[simp] theorem evalBatch_constantBatch (cs : List WriteCommand) (x : Int) : evalBatch (constantBatch cs) x = cs := by
  induction cs with
  | nil => rfl
  | cons c cs ih => simpa [constantBatch, evalBatch] using ih

/-- Every integer function on a bounded range has a formula. -/
theorem evalFormula_complete (f : Int → Int) (lo : Int) (n : Nat) :
    ∃ F : Formula, ∀ x, lo ≤ x → x < lo + n → evalFormula x F = f x := by
  induction n with
  | zero => exact ⟨.arg, fun x h k => by omega⟩
  | succ n ih =>
    obtain ⟨F, hF⟩ := ih
    refine ⟨.ifLe (.const (lo + n)) .arg (.const (f (lo + n))) F, fun x h k => ?_⟩
    by_cases hx : lo + n ≤ x
    · simp [evalFormula, show x = lo + n by omega]
    · simpa [evalFormula, hx] using hF x h (by omega)

@[simp] theorem rawTunerTemplate_constantTemplate (c : WriteCommand) :
    rawTunerTemplate (constantTemplate c) = rawTuner c := by
  cases c <;> rfl

@[simp] theorem rawTuner_evalTemplate (x : Int) (t : WriteTemplate) :
    rawTuner (evalTemplate x t) = rawTunerTemplate t := by
  cases t <;> rfl

@[simp] theorem okBatchFormula_constantBatch (cs : List WriteCommand) :
    okBatchFormula (constantBatch cs) = okBatch cs := by
  induction cs with
  | nil => rfl
  | cons c cs ih =>
    show (!rawTunerTemplate (constantTemplate c) && okBatchFormula (constantBatch cs)) = (!rawTuner c && okBatch cs)
    rw [rawTunerTemplate_constantTemplate, ih]

/-- A batch function the configuration may hold gives batches it may hold (R85). -/
theorem okBatch_evalBatch (F : BatchFormula) (x : Int) (h : okBatchFormula F = true) : okBatch (evalBatch F x) = true := by
  induction F with
  | nil => rfl
  | cons t rest ih =>
    simp only [okBatchFormula, Bool.and_eq_true] at h
    show (!rawTuner (evalTemplate x t) && okBatch (evalBatch rest x)) = true
    rw [rawTuner_evalTemplate, h.1, ih h.2, Bool.and_true]
  | ifLe a b t e iht ihe =>
    simp only [okBatchFormula, Bool.and_eq_true] at h
    unfold evalBatch
    split
    · exact iht h.1
    · exact ihe h.2

/-- Every function from a bounded range to WriteCommand lists is a batch function, whatever the number and the kinds of the
records at each argument (R7, log entry 6); where each list may stand in a configuration, so may the function (R85). -/
theorem evalBatch_complete (f : Int → List WriteCommand) (lo : Int) (n : Nat) :
    ∃ F : BatchFormula, (∀ x, lo ≤ x → x < lo + n → evalBatch F x = f x) ∧
      ((∀ x, lo ≤ x → x < lo + n → okBatch (f x) = true) → okBatchFormula F = true) := by
  induction n with
  | zero => exact ⟨.nil, fun x h k => by omega, fun _ => rfl⟩
  | succ n ih =>
    obtain ⟨F, hF, hK⟩ := ih
    refine ⟨.ifLe (.const (lo + n)) .arg (constantBatch (f (lo + n))) F, fun x h k => ?_, fun hk => ?_⟩
    · by_cases hx : lo + n ≤ x
      · simp [evalBatch, evalFormula, show x = lo + n by omega]
      · simpa [evalBatch, evalFormula, hx] using hF x h (by omega)
    · simp only [okBatchFormula, okBatchFormula_constantBatch, Bool.and_eq_true]
      exact ⟨hk _ (by omega) (by omega), hK fun x h k => hk x h (by omega)⟩

end Sys2Proof.Machine
end

