-- ==== Sys2Proof/Laws/Direct.lean ====
section
/-! SUPPORT. What the direct operations leave unchanged. -/

namespace Sys2Proof.Machine

set_option Elab.async false

/-- A property of the ending of an operation that returns. -/
def Result.When {α : Type} (x : Result α) (P : α → Run → Prop) : Prop :=
  match x with
  | .ok v r => P v r
  | .error _ _ => True
  | .fault _ _ => True

variable {α β : Type} {O : Transport}

theorem Result.When.of_ok {x : Result α} {P : α → Run → Prop} {v : α} {r : Run} (h : x.When P) (e : x = .ok v r) :
    P v r := by
  subst e; exact h

theorem when_ok {v : α} {r : Run} {P : α → Run → Prop} (h : P v r) : (Result.ok v r).When P := h

theorem when_error {e : Error} {r : Run} {P : α → Run → Prop} : (Result.error e r).When P := trivial

theorem when_fault {f : Fault} {r : Run} {P : α → Run → Prop} : (Result.fault f r).When P := trivial

theorem when_andThen {x : Result α} {g : α → Run → Result β} {P : α → Run → Prop} {Q : β → Run → Prop}
    (hx : x.When P) (hg : ∀ v r, P v r → (g v r).When Q) : (x.andThen g).When Q := by
  cases x with
  | ok v r => exact hg v r hx
  | error e r => trivial
  | fault f r => trivial

theorem when_mono {x : Result α} {P Q : α → Run → Prop} (hx : x.When P) (h : ∀ v r, P v r → Q v r) : x.When Q := by
  cases x with
  | ok v r => exact h v r hx
  | error e r => trivial
  | fault f r => trivial

theorem when_tuner {r : Run} {x : Result α} {P : α → Run → Prop} (h : x.When P) : (directTuner r x).When P := by
  unfold directTuner; split
  · exact h
  · exact when_fault

theorem when_session {want : Session} {r : Run} {x : Result α} {P : α → Run → Prop} (h : x.When P) :
    (directSession want r x).When P := by
  unfold directSession; split
  · exact h
  · exact when_fault

theorem when_stop {y : Stop} {r : Run} {P : α → Run → Prop} : (y.result r : Result α).When P := by
  cases y
  · exact when_error
  · exact when_fault

/-! ### Frames -/

theorem SameButTrace.refl (s : State) : SameButTrace s s := rfl
theorem SameButShadow.refl (s : State) : SameButShadow s s := rfl
theorem SameButTuning.refl (s : State) : SameButTuning s s := rfl

theorem SameButTrace.trans {s t u : State} (h : SameButTrace s t) (k : SameButTrace t u) : SameButTrace s u := by
  unfold SameButTrace at *; rw [h] at k; exact k

theorem SameButShadow.trans {s t u : State} (h : SameButShadow s t) (k : SameButShadow t u) : SameButShadow s u := by
  unfold SameButShadow at *; rw [h] at k; exact k

theorem SameButTuning.trans {s t u : State} (h : SameButTuning s t) (k : SameButTuning t u) : SameButTuning s u := by
  unfold SameButTuning at *; rw [h] at k; exact k

theorem SameButTrace.shadow {s t : State} (h : SameButTrace s t) : SameButShadow s t := by
  unfold SameButTrace at h; unfold SameButShadow; rw [h]

theorem SameButShadow.tuning {s t : State} (h : SameButShadow s t) : SameButTuning s t := by
  unfold SameButShadow at h; unfold SameButTuning; rw [h]

theorem ask_state (p : Primitive) (r : Run) :
    (ask O p r).When fun _ r1 => r1.state = { r.state with trace := r.state.trace ++ [p] } := by
  unfold ask
  simp only
  split
  · exact when_ok rfl
  · exact when_error

theorem ask_frame (p : Primitive) (r : Run) : (ask O p r).When fun _ r1 => SameButTrace r.state r1.state :=
  when_mono (ask_state p r) fun _ _ h => by unfold SameButTrace; rw [h]

theorem writeReg_frame (b a v w : Int) (r : Run) :
    (directWriteReg O b a v w r).When fun _ r1 => SameButTrace r.state r1.state := by
  unfold directWriteReg
  split
  · exact when_fault
  split
  · split
    · exact when_stop
    · exact when_andThen (ask_frame _ _) fun _ _ h => when_ok h
  · exact when_fault

theorem decode_frame (d : Value) (r : Run) : (directDecode d r).When fun _ r1 => r1 = r := by
  unfold directDecode
  split
  · exact when_stop
  · exact when_ok rfl

theorem readReg_frame (b a w : Int) (r : Run) :
    (directReadReg O b a w r).When fun _ r1 => SameButTrace r.state r1.state := by
  unfold directReadReg
  split
  · exact when_fault
  split
  · split
    · exact when_andThen (ask_frame _ _) fun _ _ h => when_mono (decode_frame _ _) fun _ _ e => e ▸ h
    · exact when_error
  · exact when_fault

theorem writeRegMask_frame (b a v m : Int) (r : Run) :
    (directWriteRegMask O b a v m r).When fun _ r1 => SameButTrace r.state r1.state := by
  unfold directWriteRegMask
  split
  · split
    · exact writeReg_frame ..
    · exact when_andThen (readReg_frame ..) fun _ _ h => when_mono (writeReg_frame ..) fun _ _ k => h.trans k
  · exact when_fault

theorem readDemodReg_frame (p a : Int) (r : Run) :
    (directReadDemodReg O p a r).When fun _ r1 => SameButTrace r.state r1.state := by
  unfold directReadDemodReg
  split
  · split
    · exact when_andThen (ask_frame _ _) fun _ _ h => when_mono (decode_frame _ _) fun _ _ e => e ▸ h
    · exact when_fault
  · exact when_fault

theorem writeDemodReg_frame (p a v w : Int) (r : Run) :
    (directWriteDemodReg O p a v w r).When fun _ r1 => SameButTrace r.state r1.state := by
  unfold directWriteDemodReg
  split
  · split
    · split
      · exact when_stop
      · exact when_andThen (ask_frame _ _) fun _ _ h =>
          when_andThen (readDemodReg_frame ..) fun _ _ k => when_ok (h.trans k)
    · exact when_fault
  · exact when_fault

theorem i2cWrite_frame (d a : Int) (bs : List Byte) (r : Run) :
    (directI2CWrite O d a bs r).When fun _ r1 => SameButTrace r.state r1.state := by
  unfold directI2CWrite
  split
  · exact when_andThen (ask_frame _ _) fun _ _ h => when_andThen (ask_frame _ _) fun _ _ k => when_ok (h.trans k)
  · exact when_andThen (ask_frame _ _) fun _ _ h => when_ok h

theorem i2cRead_frame (d a : Int) (n : Nat) (r : Run) :
    (directI2CRead O d a n r).When fun _ r1 => SameButTrace r.state r1.state :=
  when_andThen (ask_frame _ _) fun _ _ h => when_andThen (ask_frame _ _) fun _ _ k => when_ok (h.trans k)

theorem readI2CReg_frame (d a : Int) (r : Run) :
    (directReadI2CReg O d a r).When fun _ r1 => SameButTrace r.state r1.state := by
  unfold directReadI2CReg
  split
  · split
    · exact when_andThen (i2cRead_frame ..) fun _ _ h => when_ok h
    · exact when_fault
  · exact when_fault

theorem writeI2CReg_frame (d a v : Int) (r : Run) :
    (directWriteI2CReg O d a v r).When fun _ r1 => SameButTrace r.state r1.state := by
  unfold directWriteI2CReg
  split
  · split
    · exact i2cWrite_frame ..
    · exact when_fault
  · exact when_fault

theorem readI2CRegBuffer_frame (d a n : Int) (r : Run) :
    (directReadI2CRegBuffer O d a n r).When fun _ r1 => SameButTrace r.state r1.state := by
  unfold directReadI2CRegBuffer
  split
  · split
    · split
      · exact i2cRead_frame ..
      · exact when_fault
    · exact when_fault
  · exact when_fault

theorem writeI2CRegBuffer_frame (d a : Int) (bs : List Byte) (r : Run) :
    (directWriteI2CRegBuffer O d a bs r).When fun _ r1 => SameButTrace r.state r1.state := by
  unfold directWriteI2CRegBuffer
  split
  · split
    · split
      · exact i2cWrite_frame ..
      · exact when_fault
    · exact when_fault
  · exact when_fault

theorem record_frame (c : WriteCommand) (r : Run) :
    (directRecord O c r).When fun _ r1 => SameButTrace r.state r1.state := by
  cases c
  · exact writeReg_frame ..
  · exact writeRegMask_frame ..
  · exact writeDemodReg_frame ..
  · exact writeI2CReg_frame ..
  · simp only [directRecord]; split
    · exact when_fault
    · exact when_error

theorem writeEach_frame (cs : List WriteCommand) : ∀ r : Run,
    (directWriteEach O cs r).When fun _ r1 => SameButTrace r.state r1.state := by
  induction cs with
  | nil => intro r; exact when_ok (.refl _)
  | cons c cs ih =>
    intro r
    exact when_andThen (record_frame c r) fun _ r1 h => when_mono (ih r1) fun _ _ k => h.trans k

theorem readRegBuffer_frame (a n : Int) (r : Run) :
    (directReadRegBuffer O a n r).When fun _ r1 => SameButTrace r.state r1.state := by
  refine when_tuner ?_
  split
  · exact when_andThen (readI2CRegBuffer_frame ..) fun _ _ h => when_ok h
  · exact when_fault

theorem check_frame (r : Run) : (directCheck O r).When fun _ r1 => SameButTrace r.state r1.state :=
  when_andThen (readI2CReg_frame ..) fun _ _ h => when_ok h

theorem setShadow_frame (s : State) (i : Fin 27) (b : Byte) : SameButShadow s (setShadow s i b) := rfl

theorem masked_frame (m : MaskedWrite) (r : Run) :
    (directMasked O m r).When fun _ r1 => SameButShadow r.state r1.state := by
  refine when_tuner ?_
  split
  · exact when_fault
  split
  · split
    · exact when_fault
    · split
      · exact when_mono (writeI2CReg_frame ..) fun _ _ h => (setShadow_frame _ _ _).trans h.shadow
      · exact when_fault
  · exact when_fault

theorem maskedAll_frame (ws : List MaskedWrite) : ∀ r : Run,
    (directMaskedAll O ws r).When fun _ r1 => SameButShadow r.state r1.state := by
  induction ws with
  | nil => intro r; exact when_ok (.refl _)
  | cons m ws ih =>
    intro r
    exact when_andThen (masked_frame m r) fun _ r1 h => when_mono (ih r1) fun _ _ k => h.trans k

theorem attempt_frame (a : Attempt) (r : Run) :
    (directAttempt O a r).When fun _ r1 => SameButTuning r.state r1.state :=
  when_andThen (readRegBuffer_frame ..) fun _ _ h => when_ok (SameButTuning.trans (t := { r.state with pllState := attemptState a }) rfl h.shadow.tuning)

theorem secondAttempt_frame (r : Run) :
    (directSecondAttempt O r).When fun _ r1 => SameButTuning r.state r1.state := by
  refine when_andThen (attempt_frame _ _) fun _ _ h => ?_
  split <;> exact when_ok (h.trans rfl)

theorem getPllLock_frame (first : Bool) (r : Run) :
    (directGetPllLock O first r).When fun _ r1 => SameButTuning r.state r1.state := by
  refine when_tuner ?_
  split
  · refine when_andThen (attempt_frame _ _) fun _ _ h => ?_
    split
    · exact when_ok (h.trans rfl)
    · exact when_andThen (masked_frame _ _) fun _ _ k =>
        when_mono (secondAttempt_frame _) fun _ _ l => (h.trans k.tuning).trans l
  · exact secondAttempt_frame _

theorem synthesize_frame (md : Rat) (n : Int) (fr : Rat) (r : Run) :
    (directSynthesize O md n fr r).When fun _ r1 => SameButTuning r.state r1.state :=
  when_andThen (masked_frame _ _) fun _ _ h1 => when_andThen (masked_frame _ _) fun _ _ h2 =>
  when_andThen (masked_frame _ _) fun _ _ h3 => when_andThen (masked_frame _ _) fun _ _ h4 =>
  when_andThen (getPllLock_frame _ _) fun _ _ h5 => when_andThen (masked_frame _ _) fun _ _ h6 =>
  when_ok ((((((h1.trans h2).trans h3).trans h4).tuning).trans h5).trans h6.tuning)

theorem parameters_frame (f : Int) (md : Rat) (r : Run) :
    (directParameters O f md r).When fun _ r1 => SameButTuning r.state r1.state := by
  unfold directParameters
  simp only
  split
  · exact when_ok rfl
  · split
    · exact when_fault
    · exact synthesize_frame ..

theorem setPll_frame (f : Int) (r : Run) :
    (directSetPll O f r).When fun _ r1 => SameButTuning r.state r1.state := by
  refine when_tuner ?_
  split
  · exact when_andThen (maskedAll_frame _ _) fun _ _ h1 => when_andThen (readRegBuffer_frame ..) fun _ _ h2 =>
      when_andThen (masked_frame _ _) fun _ _ h3 => when_mono (parameters_frame ..) fun _ _ h4 =>
        (((h1.trans h2.shadow).trans h3).tuning).trans h4
  · exact when_fault

theorem setMux_frame (f : Int) (r : Run) :
    (directSetMux O f r).When fun _ r1 => SameButShadow r.state r1.state := by
  refine when_tuner ?_
  split
  · exact when_fault
  · split
    · exact when_fault
    · exact maskedAll_frame _ _

theorem setFrequency_frame (f : Int) (r : Run) :
    (directSetFrequency O f r).When fun _ r1 => SameButTuning r.state r1.state := by
  refine when_tuner ?_
  split
  · exact when_andThen (setMux_frame ..) fun _ _ h => when_mono (setPll_frame ..) fun _ _ k => h.tuning.trans k
  · exact when_fault

theorem pass_frame (r : Run) :
    (directCalibrationPass O r).When fun _ r1 => SameButTuning r.state r1.state := by
  refine when_andThen (maskedAll_frame _ _) fun _ _ h1 => when_andThen (setPll_frame ..) fun _ _ h2 => ?_
  split
  · exact when_andThen (maskedAll_frame _ _) fun _ _ h3 => when_andThen (readRegBuffer_frame ..) fun _ _ h4 =>
      when_ok ((h1.tuning.trans h2).trans (h3.trans h4.shadow).tuning)
  · exact when_error

theorem calibrateFilter_frame (first : Bool) (r : Run) :
    (directCalibrateFilter O first r).When fun _ r1 => SameButTuning r.state r1.state := by
  refine when_tuner (when_andThen (pass_frame _) fun _ _ h => ?_)
  split
  · exact when_mono (pass_frame _) fun _ _ k => h.trans k
  · exact when_ok h

theorem initElectronics_frame (r : Run) :
    (directInitElectronics O r).When fun _ r1 => SameButTuning r.state r1.state :=
  when_tuner <| when_andThen (maskedAll_frame _ _) fun _ _ h1 => when_andThen (calibrateFilter_frame _ _) fun _ _ h2 =>
    when_mono (maskedAll_frame _ _) fun _ _ h3 => (h1.tuning.trans h2).trans h3.tuning

theorem image_frame (is : List (Fin 27)) : ∀ r : Run,
    (directImage O is r).When fun _ r1 => SameButShadow r.state r1.state := by
  induction is with
  | nil => intro r; exact when_ok (.refl _)
  | cons i is ih =>
    intro r
    exact when_andThen (writeI2CReg_frame ..) fun _ r1 h =>
      when_mono (ih r1) fun _ _ k => ((setShadow_frame _ _ _).trans h.shadow).trans k

theorem tunerInit_frame (r : Run) :
    (directTunerInit O r).When fun _ r1 => SameButTuning r.state r1.state := by
  refine when_tuner ?_
  split
  · exact when_andThen (image_frame _ _) fun _ _ h => when_mono (initElectronics_frame _) fun _ _ k => h.tuning.trans k
  · exact when_fault

theorem tunerClose_frame (r : Run) :
    (directTunerClose O r).When fun _ r1 => SameButShadow r.state r1.state := when_tuner (maskedAll_frame _ _)

theorem setAutoGain_frame (r : Run) :
    (directSetAutoGain O r).When fun _ r1 => SameButShadow r.state r1.state := when_tuner (maskedAll_frame _ _)

theorem setManualGain_frame (g : Rat) (r : Run) :
    (directSetManualGain O g r).When fun _ r1 => SameButShadow r.state r1.state :=
  when_tuner <| when_andThen (maskedAll_frame _ _) fun _ _ h => when_mono (maskedAll_frame _ _) fun _ _ k => h.trans k

theorem setGainInner_frame (g : Option Rat) (r : Run) :
    (directSetGainInner O g r).When fun _ r1 => SameButShadow r.state r1.state := by
  cases g
  · exact setAutoGain_frame _
  · exact setManualGain_frame ..

end Sys2Proof.Machine
end

