-- ==== Sys2Proof/Laws/Follow.lean ====
section
/-! SUPPORT. Each operation, run by the machine from its first statement, does what its direct style says: one lemma
for each operation, which the larger operations cite. -/

namespace Sys2Proof.Machine

set_option Elab.async false

/-- The machine at a run's state, with a frame stack, a latch and the answers to come. -/
def place (r : Run) (fs : List Frame) (lv : Value) (rest : List Answer) : State :=
  { r.state with frames := fs, latch := lv, inflight := none, answers := rest }

@[simp] theorem place_cfg (r fs lv rest) : (place r fs lv rest).cfg = r.state.cfg := rfl
@[simp] theorem place_session (r fs lv rest) : (place r fs lv rest).session = r.state.session := rfl
@[simp] theorem place_claimed (r fs lv rest) : (place r fs lv rest).claimed = r.state.claimed := rfl
@[simp] theorem place_i2cOpen (r fs lv rest) : (place r fs lv rest).i2cOpen = r.state.i2cOpen := rfl
@[simp] theorem place_tunerPresent (r fs lv rest) : (place r fs lv rest).tunerPresent = r.state.tunerPresent := rfl
@[simp] theorem place_shadow (r fs lv rest) : (place r fs lv rest).shadow = r.state.shadow := rfl
@[simp] theorem place_hasLock (r fs lv rest) : (place r fs lv rest).hasLock = r.state.hasLock := rfl
@[simp] theorem place_ppm (r fs lv rest) : (place r fs lv rest).ppm = r.state.ppm := rfl
@[simp] theorem place_gainCfg (r fs lv rest) : (place r fs lv rest).gainCfg = r.state.gainCfg := rfl
@[simp] theorem place_streamReady (r fs lv rest) : (place r fs lv rest).streamReady = r.state.streamReady := rfl
@[simp] theorem place_crystal (r fs lv rest) : crystal (place r fs lv rest) = crystal r.state := rfl

/-- A value is handed to the frames below: they go on to `o`, or the port answers it. -/
def Returned (fs : List Frame) (v : Value) (r : Run) (rest : List Answer) (o : Host.Outcome State Fault Refusal) : Prop :=
  match fs with
  | [] => o = .next (respond v (place r [] .unit rest))
  | _ :: _ => Ends (place r fs v rest) o

/-- From the frames `P` with the latch `lv` at run `r`, the machine ends the operation above `fs` as `x` says. -/
def Sim {α : Type} (P : List Frame) (lv : Value) (r : Run) (fs : List Frame) (w : α → Value) : Result α → Prop
  | .ok v r1 => ∃ a, r1.answers = r.answers ++ a ∧
      ∀ rest o, Returned fs (w v) r1 rest o → Ends (place r P lv (a ++ rest)) o
  | .error e r1 => ∃ a, r1.answers = r.answers ++ a ∧
      ∀ rest, Ends (place r P lv (a ++ rest)) (.next (errorEntry e (place r1 fs .unit rest)))
  | .fault f r1 => ∃ a, r1.answers = r.answers ++ a ∧ ∀ rest, Ends (place r P lv (a ++ rest)) (.fault f)

theorem micro_place (r : Run) (F : Frame) (fs : List Frame) (lv : Value) (rest : List Answer) :
    micro (place r (F :: fs) lv rest) = (resume F lv (place r fs lv rest)).move := rfl

variable {α β : Type} {O : Transport} {F : Frame} {fs : List Frame} {lv : Value} {r : Run} {w : α → Value}

/-- `return v` -/
theorem sim_ret {v : α} {r1 : Run}
    (h : ∀ rest, resume F lv (place r fs lv rest) = .ret (w v) (place r1 fs lv rest))
    (ha : r1.answers = r.answers := by rfl) : Sim (F :: fs) lv r fs w (.ok v r1) := by
  refine ⟨[], by simpa using ha, fun rest o ho => ?_⟩
  have hm := micro_place r F fs lv rest
  rw [h] at hm
  cases fs with
  | nil => subst ho; exact .finish hm rfl
  | cons g gs => exact .more hm ho

/-- `raise E` -/
theorem sim_raise {e : Error} (h : ∀ rest, resume F lv (place r fs lv rest) = .raise e (place r fs lv rest)) :
    Sim (F :: fs) lv r fs w (.error e r : Result α) := by
  refine ⟨[], by simp, fun rest => ?_⟩
  have hm := micro_place r F fs lv rest
  rw [h] at hm
  exact .finish hm rfl

/-- `raise Fault.X` -/
theorem sim_fault {f : Fault} (h : ∀ rest, resume F lv (place r fs lv rest) = .fault f) :
    Sim (F :: fs) lv r fs w (.fault f r : Result α) := by
  refine ⟨[], by simp, fun rest => ?_⟩
  have hm := micro_place r F fs lv rest
  rw [h] at hm
  exact .fault hm

/-- Whether a stack is below `readSamples` does not depend on another frame above it. -/
theorem inReadSamples_cons {k : Frame} (hk : k ≠ .readSamplesData) (fs : List Frame) :
    inReadSamples (k :: fs) = inReadSamples fs := by
  simp [inReadSamples, hk]

theorem errorEntry_cons {k : Frame} (hk : k ≠ .readSamplesData) (e : Error) (r : Run) (fs : List Frame) (lv lv' : Value)
    (rest : List Answer) : errorEntry e (place r (k :: fs) lv rest) = errorEntry e (place r fs lv' rest) := by
  have h := inReadSamples_cons hk fs
  cases hb : isBulkFailure e <;> cases hx : inReadSamples fs <;> simp [errorEntry, place, h, hb, hx]

/-- One transport primitive. -/
theorem sim_prim {p : Primitive} {k : Frame} {g : Value → Run → Result α}
    (h : ∀ rest, resume F lv (place r fs lv rest) = .prim p k (place r fs lv rest)) (hk : k ≠ .readSamplesData)
    (hg : ∀ v r1, ask O p r = .ok v r1 → Sim (k :: fs) v r1 fs w (g v r1)) :
    Sim (F :: fs) lv r fs w ((ask O p r).andThen g) := by
  have hm : ∀ rest, micro (place r (F :: fs) lv rest) = .done (transact p (place r (k :: fs) lv rest)) := fun rest => by
    rw [micro_place, h]; rfl
  simp only [ask] at hg ⊢
  cases hp : primitiveResult p (O r.answers.length p) with
  | error e =>
    refine ⟨[O r.answers.length p], rfl, fun rest => ?_⟩
    have ht := transact_error (s := place r (k :: fs) lv ([O r.answers.length p] ++ rest)) rfl hp
    have : errorEntry e (place (r.asked p (O r.answers.length p)) fs .unit rest) =
        transact p (place r (k :: fs) lv ([O r.answers.length p] ++ rest)) := by
      rw [ht]; exact (errorEntry_cons hk _ _ _ lv .unit _).symm
    rw [this]
    exact .finish (hm _) (by rw [ht]; rfl)
  | ok v =>
    simp only [Result.andThen]
    have hs := hg v (r.asked p (O r.answers.length p)) (by simp [hp])
    have ht : ∀ rest, transact p (place r (k :: fs) lv (O r.answers.length p :: rest)) =
        place (r.asked p (O r.answers.length p)) (k :: fs) v rest := fun rest => transact_ok rfl hp
    have key : ∀ rest o, Ends (place (r.asked p (O r.answers.length p)) (k :: fs) v rest) o →
        Ends (place r (F :: fs) lv (O r.answers.length p :: rest)) o := fun rest o he =>
      .done (hm _) (by rw [ht]; exact List.cons_ne_nil _ _) (by rw [ht]; exact he)
    cases hgv : g v (r.asked p (O r.answers.length p)) with
    | ok u r1 =>
      rw [hgv] at hs
      obtain ⟨a, ha, hx⟩ := hs
      exact ⟨O r.answers.length p :: a, by simp [ha, Run.asked], fun rest o ho => key _ _ (hx rest o ho)⟩
    | error e r1 =>
      rw [hgv] at hs
      obtain ⟨a, ha, hx⟩ := hs
      exact ⟨O r.answers.length p :: a, by simp [ha, Run.asked], fun rest => key _ _ (hx rest)⟩
    | fault f r1 =>
      rw [hgv] at hs
      obtain ⟨a, ha, hx⟩ := hs
      exact ⟨O r.answers.length p :: a, by simp [ha, Run.asked], fun rest => key _ _ (hx rest)⟩

/-- `call op(args)` -/
theorem sim_call {op : Op} {k : Frame} {r0 : Run} {w' : β → Value} {x : Result β} {g : β → Run → Result α}
    (h : ∀ rest, resume F lv (place r fs lv rest) = .call op k (place r0 fs lv rest)) (hk : k ≠ .readSamplesData)
    (hx : Sim (.enter op :: k :: fs) .unit r0 (k :: fs) w' x)
    (hg : ∀ v r1, x = .ok v r1 → Sim (k :: fs) (w' v) r1 fs w (g v r1))
    (ha0 : r0.answers = r.answers := by rfl) :
    Sim (F :: fs) lv r fs w (x.andThen g) := by
  have key : ∀ rest o, Ends (place r0 (.enter op :: k :: fs) .unit rest) o → Ends (place r (F :: fs) lv rest) o :=
    fun rest o he => .more (by rw [micro_place, h]; rfl) he
  cases x with
  | ok v r1 =>
    obtain ⟨a, ha, hx⟩ := hx
    have hs := hg v r1 rfl
    simp only [Result.andThen]
    cases hgv : g v r1 with
    | ok u r2 =>
      rw [hgv] at hs
      obtain ⟨b, hb, hy⟩ := hs
      exact ⟨a ++ b, by simp [hb, ha, ha0], fun rest o ho => by
        rw [List.append_assoc]; exact key _ _ (hx _ _ (hy rest o ho))⟩
    | error e r2 =>
      rw [hgv] at hs
      obtain ⟨b, hb, hy⟩ := hs
      exact ⟨a ++ b, by simp [hb, ha, ha0], fun rest => by
        rw [List.append_assoc]; exact key _ _ (hx _ _ (hy rest))⟩
    | fault f r2 =>
      rw [hgv] at hs
      obtain ⟨b, hb, hy⟩ := hs
      exact ⟨a ++ b, by simp [hb, ha, ha0], fun rest => by
        rw [List.append_assoc]; exact key _ _ (hx _ _ (hy rest))⟩
  | error e r1 =>
    obtain ⟨a, ha, hx⟩ := hx
    exact ⟨a, by rw [ha, ha0], fun rest => by
      rw [← errorEntry_cons hk e r1 fs .unit .unit rest]; exact key _ _ (hx rest)⟩
  | fault f r1 =>
    obtain ⟨a, ha, hx⟩ := hx
    exact ⟨a, by rw [ha, ha0], fun rest => key _ _ (hx rest)⟩

theorem andThen_assoc {γ : Type} (x : Result α) (g : α → Run → Result β) (h : β → Run → Result γ) :
    (x.andThen g).andThen h = x.andThen fun v r => (g v r).andThen h := by cases x <;> rfl

theorem andThen_ok (x : Result α) : x.andThen .ok = x := by cases x <;> rfl

/-- `call op(args)` whose result the operation then returns. -/
theorem sim_tail {op : Op} {k : Frame} {r0 : Run} {w' : α → Value} {x : Result α}
    (h : ∀ rest, resume F lv (place r fs lv rest) = .call op k (place r0 fs lv rest)) (hk : k ≠ .readSamplesData)
    (hx : Sim (.enter op :: k :: fs) .unit r0 (k :: fs) w' x)
    (hg : ∀ v r1, x = .ok v r1 → Sim (k :: fs) (w' v) r1 fs w (.ok v r1))
    (ha0 : r0.answers = r.answers := by rfl) : Sim (F :: fs) lv r fs w x := by
  rw [← andThen_ok x]
  exact sim_call h hk hx hg ha0

/-! ### RegisterBus -/

theorem sim_stop {y : Stop} (h : ∀ rest, resume F lv (place r fs lv rest) = y.act (place r fs lv rest)) :
    Sim (F :: fs) lv r fs w (y.result r : Result α) := by
  cases y with
  | error e => exact sim_raise h
  | fault f => exact sim_fault h

theorem sim_writeReg (b reg v n : Int) (r : Run) (fs : List Frame) :
    Sim (.enter (.writeReg b reg v n) :: fs) .unit r fs unitValue (directWriteReg O b reg v n r) := by
  unfold directWriteReg
  split
  · rename_i h; exact sim_fault fun rest => by simp [resume, enterOp, enterWriteReg, h]
  · rename_i blk h
    split
    · rename_i hr
      split
      · rename_i e he; exact sim_stop fun rest => by simp [resume, enterOp, enterWriteReg, h, hr, he]
      · rename_i d hd
        exact sim_prim (k := .writeRegDone) (fun rest => by simp [resume, enterOp, enterWriteReg, h, hr, hd]) nofun
          fun v r1 _ => sim_ret fun rest => rfl
    · rename_i hr; exact sim_fault fun rest => by simp [resume, enterOp, enterWriteReg, h, hr]

theorem sim_decode (d : Value) (r : Run) (fs : List Frame) (hF : ∀ v s, resume F v s = returnDecoded v s) :
    Sim (F :: fs) d r fs Value.int (directDecode d r) := by
  unfold directDecode
  split
  · rename_i e he; exact sim_stop fun rest => by simp [hF, returnDecoded, he]
  · rename_i z hz; exact sim_ret fun rest => by simp [hF, returnDecoded, hz]

theorem sim_readReg (b reg n : Int) (r : Run) (fs : List Frame) :
    Sim (.enter (.readReg b reg n) :: fs) .unit r fs Value.int (directReadReg O b reg n r) := by
  unfold directReadReg
  split
  · rename_i h; exact sim_fault fun rest => by simp [resume, enterOp, enterReadReg, h]
  · rename_i blk h
    split
    · rename_i hr
      split
      · rename_i hw
        exact sim_prim (k := .readRegData) (fun rest => by simp [resume, enterOp, enterReadReg, h, hr, hw]) nofun
          fun v r1 _ => sim_decode v r1 fs fun _ _ => rfl
      · rename_i hw; exact sim_raise fun rest => by simp [resume, enterOp, enterReadReg, h, hr, hw]
    · rename_i hr; exact sim_fault fun rest => by simp [resume, enterOp, enterReadReg, h, hr]

theorem sim_writeRegMask (b reg v m : Int) (r : Run) (fs : List Frame) :
    Sim (.enter (.writeRegMask b reg v m) :: fs) .unit r fs unitValue (directWriteRegMask O b reg v m r) := by
  unfold directWriteRegMask
  split
  · rename_i h
    split
    · rename_i hm
      subst hm
      exact sim_tail (k := .writeRegMaskDone)
        (fun rest => by simp only [resume, enterOp, enterWriteRegMask, h, if_true])
        nofun (sim_writeReg b reg v 1 r _) fun v r1 _ => sim_ret fun rest => rfl
    · rename_i hm
      exact sim_call (k := .writeRegMaskRead b reg v m)
        (fun rest => by simp only [resume, enterOp, enterWriteRegMask, h, hm, if_true, if_false])
        nofun (sim_readReg b reg 1 r _) fun old r1 _ =>
          sim_tail (k := .writeRegMaskDone) (fun rest => rfl) nofun (sim_writeReg _ _ _ _ r1 _) fun v r2 _ =>
            sim_ret fun rest => rfl
  · rename_i h; exact sim_fault fun rest => by simp only [resume, enterOp, enterWriteRegMask, h]; rfl

theorem sim_readDemodReg (p a : Int) (r : Run) (fs : List Frame) :
    Sim (.enter (.readDemodReg p a) :: fs) .unit r fs Value.int (directReadDemodReg O p a r) := by
  unfold directReadDemodReg
  split
  · rename_i hp
    split
    · rename_i ha
      exact sim_prim (k := .readDemodRegData) (fun rest => by simp [resume, enterOp, enterReadDemodReg, hp, ha]) nofun
        fun v r1 _ => sim_decode v r1 fs fun _ _ => rfl
    · rename_i ha; exact sim_fault fun rest => by simp [resume, enterOp, enterReadDemodReg, hp, ha]
  · rename_i hp; exact sim_fault fun rest => by simp [resume, enterOp, enterReadDemodReg, hp]

theorem sim_writeDemodReg (p a v n : Int) (r : Run) (fs : List Frame) :
    Sim (.enter (.writeDemodReg p a v n) :: fs) .unit r fs unitValue (directWriteDemodReg O p a v n r) := by
  unfold directWriteDemodReg
  split
  · rename_i hp
    split
    · rename_i ha
      split
      · rename_i e he; exact sim_stop fun rest => by simp [resume, enterOp, enterWriteDemodReg, hp, ha, he]
      · rename_i d hd
        exact sim_prim (k := .writeDemodRegPoll)
          (fun rest => by simp [resume, enterOp, enterWriteDemodReg, hp, ha, hd]) nofun fun v r1 _ =>
          sim_call (k := .writeDemodRegDone) (fun rest => rfl) nofun (sim_readDemodReg _ _ r1 _) fun _ r2 _ =>
            sim_ret fun rest => rfl
    · rename_i ha; exact sim_fault fun rest => by simp [resume, enterOp, enterWriteDemodReg, hp, ha]
  · rename_i hp; exact sim_fault fun rest => by simp [resume, enterOp, enterWriteDemodReg, hp]

theorem sim_openI2C (r : Run) (fs : List Frame) :
    Sim (.enter .openI2C :: fs) .unit r fs unitValue (directOpenI2C O r) :=
  sim_call (k := .openI2CDone) (fun rest => rfl) nofun (sim_writeDemodReg _ _ _ _ r _) fun _ r1 _ =>
    sim_ret fun rest => rfl

theorem sim_closeI2C (r : Run) (fs : List Frame) :
    Sim (.enter .closeI2C :: fs) .unit r fs unitValue (directCloseI2C O r) :=
  sim_call (k := .closeI2CDone) (fun rest => rfl) nofun (sim_writeDemodReg _ _ _ _ r _) fun _ r1 _ =>
    sim_ret fun rest => rfl

theorem ask_cfg {p : Primitive} {r r1 : Run} {v : Value} (h : ask O p r = .ok v r1) :
    r1.state = { r.state with trace := r.state.trace ++ [p] } := by
  simp only [ask] at h
  split at h <;> cases h
  rfl

theorem sim_readI2CReg (d a : Int) (r : Run) (fs : List Frame) :
    Sim (.enter (.readI2CReg d a) :: fs) .unit r fs Value.byte (directReadI2CReg O d a r) := by
  unfold directReadI2CReg
  split
  · rename_i hb
    split
    · rename_i ho
      simp only [directI2CRead, andThen_assoc]
      exact sim_prim (k := .readI2CRegSelected d)
        (fun rest => by simp only [resume, enterOp, enterReadI2CReg, place_i2cOpen, ho, hb, if_true, place_cfg]) nofun
        fun v r1 _ => sim_prim (k := .readI2CRegData) (fun rest => rfl) nofun fun v r2 _ => sim_ret fun rest => rfl
    · rename_i ho
      exact sim_fault fun rest => by simp only [resume, enterOp, enterReadI2CReg, place_i2cOpen, ho, hb, if_true]; rfl
  · rename_i hb
    exact sim_fault fun rest => by simp only [resume, enterOp, enterReadI2CReg, hb]; rfl

theorem sim_writeI2CReg (d a v : Int) (r : Run) (fs : List Frame) :
    Sim (.enter (.writeI2CReg d a v) :: fs) .unit r fs unitValue (directWriteI2CReg O d a v r) := by
  unfold directWriteI2CReg
  split
  · rename_i hb
    split
    · rename_i ho
      unfold directI2CWrite
      split
      · rename_i hw
        exact sim_prim (k := .writeI2CRegSelected d v)
          (fun rest => by simp only [resume, enterOp, enterWriteI2CReg, place_i2cOpen, ho, hb, hw, if_true, place_cfg])
          nofun fun _ r1 _ =>
            sim_prim (k := .writeI2CRegDone) (fun rest => rfl) nofun fun _ r2 _ => sim_ret fun rest => rfl
      · rename_i hw
        exact sim_prim (k := .writeI2CRegDone)
          (fun rest => by simp only [resume, enterOp, enterWriteI2CReg, place_i2cOpen, ho, hb, hw, if_true, place_cfg])
          nofun fun _ r1 _ => sim_ret fun rest => rfl
    · rename_i ho
      exact sim_fault fun rest => by simp only [resume, enterOp, enterWriteI2CReg, place_i2cOpen, ho, hb, if_true]; rfl
  · rename_i hb
    exact sim_fault fun rest => by simp only [resume, enterOp, enterWriteI2CReg, hb]; rfl

theorem sim_readI2CRegBuffer (d a n : Int) (r : Run) (fs : List Frame) :
    Sim (.enter (.readI2CRegBuffer d a n) :: fs) .unit r fs Value.bytes (directReadI2CRegBuffer O d a n r) := by
  unfold directReadI2CRegBuffer
  split
  · rename_i hb
    split
    · rename_i ho
      split
      · rename_i hn
        exact sim_prim (k := .readI2CRegBufferSelected d n)
          (fun rest => by
            simp only [resume, enterOp, enterReadI2CRegBuffer, place_i2cOpen, ho, hn, hb, if_true, place_cfg])
          nofun fun v r1 _ =>
            sim_prim (k := .readI2CRegBufferData) (fun rest => rfl) nofun fun v r2 _ => sim_ret fun rest => rfl
      · rename_i hn
        exact sim_fault fun rest => by
          simp only [resume, enterOp, enterReadI2CRegBuffer, place_i2cOpen, ho, hn, hb, if_true, if_false]
    · rename_i ho
      exact sim_fault fun rest => by
        simp only [resume, enterOp, enterReadI2CRegBuffer, place_i2cOpen, ho, hb, if_true]; rfl
  · rename_i hb
    exact sim_fault fun rest => by simp only [resume, enterOp, enterReadI2CRegBuffer, hb]; rfl

theorem sim_writeI2CRegBuffer (d a : Int) (bs : List Byte) (r : Run) (fs : List Frame) :
    Sim (.enter (.writeI2CRegBuffer d a bs) :: fs) .unit r fs unitValue (directWriteI2CRegBuffer O d a bs r) := by
  unfold directWriteI2CRegBuffer
  split
  · rename_i hb
    split
    · rename_i ho
      split
      · rename_i hn
        unfold directI2CWrite
        split
        · rename_i hw
          exact sim_prim (k := .writeI2CRegBufferSelected d bs)
            (fun rest => by
              simp only [resume, enterOp, enterWriteI2CRegBuffer, place_i2cOpen, ho, hn, hb, hw, if_true, place_cfg])
            nofun fun _ r1 _ =>
              sim_prim (k := .writeI2CRegBufferDone) (fun rest => rfl) nofun fun _ r2 _ => sim_ret fun rest => rfl
        · rename_i hw
          exact sim_prim (k := .writeI2CRegBufferDone)
            (fun rest => by
              simp only [resume, enterOp, enterWriteI2CRegBuffer, place_i2cOpen, ho, hn, hb, hw, if_true, place_cfg])
            nofun fun _ r1 _ => sim_ret fun rest => rfl
      · rename_i hn
        exact sim_fault fun rest => by
          simp only [resume, enterOp, enterWriteI2CRegBuffer, place_i2cOpen, ho, hn, hb, if_true, if_false]
    · rename_i ho
      exact sim_fault fun rest => by
        simp only [resume, enterOp, enterWriteI2CRegBuffer, place_i2cOpen, ho, hb, if_true]; rfl
  · rename_i hb
    exact sim_fault fun rest => by simp only [resume, enterOp, enterWriteI2CRegBuffer, hb]; rfl

/-- A record runs as the operation it is dispatched to. -/
theorem sim_record {c : WriteCommand} {op : Op} (h : dispatchOp c = some op) (r : Run) (fs : List Frame) :
    Sim (.enter op :: fs) .unit r fs unitValue (directRecord O c r) := by
  cases c <;> simp only [dispatchOp, Option.some.injEq, reduceCtorEq] at h <;> subst h
  · exact sim_writeReg ..
  · exact sim_writeRegMask ..
  · exact sim_writeDemodReg ..
  · exact sim_writeI2CReg ..

theorem sim_batch (cs : List WriteCommand) : ∀ (F : Frame) (lv : Value) (r : Run) (fs : List Frame),
    (∀ v s, resume F v s = loopWriteEach cs s) → Sim (F :: fs) lv r fs unitValue (directWriteEach O cs r) := by
  induction cs with
  | nil => intro F lv r fs hF; exact sim_ret fun rest => by rw [hF]; rfl
  | cons c cs ih =>
    intro F lv r fs hF
    cases hc : dispatchOp c with
    | none =>
      obtain ⟨tag, fields, rfl⟩ : ∃ tag fields, c = .unknown tag fields := by
        cases c <;> first | exact ⟨_, _, rfl⟩ | cases hc
      by_cases ht : (fieldCount tag).isSome = true
      · have : directWriteEach O (.unknown tag fields :: cs) r = .fault .valueOutOfRange r := by
          simp [directWriteEach, directRecord, ht, Result.andThen]
        rw [this]
        exact sim_fault fun rest => by simp [hF, loopWriteEach, hc, stopUnknown, ht]
      · have : directWriteEach O (.unknown tag fields :: cs) r = .error .unsupportedOperation r := by
          simp [directWriteEach, directRecord, ht, Result.andThen]
        rw [this]
        exact sim_raise fun rest => by simp [hF, loopWriteEach, hc, stopUnknown, ht]
    | some op =>
      exact sim_call (k := .writeEachNext cs) (fun rest => by simp [hF, loopWriteEach, hc]) nofun (sim_record hc r _)
        fun _ r1 _ => ih _ _ r1 fs fun _ _ => rfl

theorem sim_writeEach (cs : List WriteCommand) (r : Run) (fs : List Frame) :
    Sim (.enter (.writeEach cs) :: fs) .unit r fs unitValue (directWriteEach O cs r) :=
  sim_batch cs _ _ r fs fun _ _ => rfl

theorem sim_claim (r : Run) (fs : List Frame) :
    Sim (.enter .claimInterface :: fs) .unit r fs unitValue (directClaim O r) :=
  sim_prim (k := .claimInterfaceDone) (fun rest => rfl) nofun fun _ r1 _ => sim_ret fun rest => rfl

theorem sim_release (r : Run) (fs : List Frame) :
    Sim (.enter .releaseInterface :: fs) .unit r fs unitValue (directRelease O r) :=
  sim_prim (k := .releaseInterfaceDone) (fun rest => rfl) nofun fun _ r1 _ => sim_ret fun rest => rfl

theorem sim_readBulk (n : Int) (r : Run) (fs : List Frame) :
    Sim (.enter (.readBulk n) :: fs) .unit r fs Value.bytes (directReadBulk O n r) := by
  unfold directReadBulk
  split
  · rename_i hn
    split
    · rename_i hc
      exact sim_prim (k := .readBulkData)
        (fun rest => by simp only [resume, enterOp, enterReadBulk, place_claimed, hn, hc, if_true]) nofun
        fun v r1 _ => sim_ret fun rest => rfl
    · rename_i hc
      exact sim_fault fun rest => by simp only [resume, enterOp, enterReadBulk, place_claimed, hn, hc, if_true]; rfl
  · rename_i hn; exact sim_fault fun rest => by simp only [resume, enterOp, enterReadBulk, hn, if_false]

end Sys2Proof.Machine
end

