-- ==== Sys2Proof/Laws/FollowTuner.lean ====
section
/-! SUPPORT. The tuner operations, run by the machine, do what their direct style says. -/

namespace Sys2Proof.Machine

set_option Elab.async false

variable {α β : Type} {O : Transport} {F : Frame} {fs : List Frame} {lv : Value} {r : Run} {w : α → Value}

/-- The precondition of a tuner operation (R79). -/
theorem sim_tuner {x : Result α} {act : State → Act} (hF : ∀ s, resume F lv s = requireTuner s (act s))
    (h : r.state.tunerPresent = true → (∀ rest, resume F lv (place r fs lv rest) = act (place r fs lv rest)) →
      Sim (F :: fs) lv r fs w x) : Sim (F :: fs) lv r fs w (directTuner r x) := by
  unfold directTuner
  split
  · rename_i ht; exact h ht fun rest => by rw [hF]; simp [requireTuner, ht]
  · rename_i ht; exact sim_fault fun rest => by rw [hF]; simp [requireTuner, ht]

theorem sim_check (r : Run) (fs : List Frame) :
    Sim (.enter .tunerCheck :: fs) .unit r fs Value.bool (directCheck O r) :=
  sim_call (k := .tunerCheckRead) (fun rest => rfl) nofun (sim_readI2CReg _ _ r _) fun _ r1 _ => sim_ret fun rest => rfl

theorem sim_readRegBuffer (a n : Int) (r : Run) (fs : List Frame) :
    Sim (.enter (.tunerReadRegBuffer a n) :: fs) .unit r fs Value.bytes (directReadRegBuffer O a n r) := by
  refine sim_tuner (fun s => rfl) fun ht hs => ?_
  split
  · rename_i h
    exact sim_call (k := .readRegBufferData) (fun rest => by rw [hs]; simp only [h, if_true]) nofun
      (sim_readI2CRegBuffer _ _ _ r _) fun d r1 _ => sim_ret fun rest => rfl
  · rename_i h; exact sim_fault fun rest => by rw [hs]; simp only [h]; rfl

theorem sim_masked (m : MaskedWrite) (r : Run) (fs : List Frame) :
    Sim (.enter (.tunerWriteRegMask m.addr m.value m.mask) :: fs) .unit r fs unitValue (directMasked O m r) := by
  refine sim_tuner (fun s => rfl) fun ht hs => ?_
  split
  · rename_i h; exact sim_fault fun rest => by rw [hs]; simp only [h]
  · rename_i i hi
    split
    · rename_i hm
      split
      · rename_i h; exact sim_fault fun rest => by rw [hs]; simp only [hi, hm, if_true, place_shadow, h]
      · rename_i old h
        split
        · rename_i ho
          refine sim_tail (k := .tunerWriteRegMaskDone) (r0 := r.write (setShadow r.state i _))
            (fun rest => by rw [hs]; simp only [hi, hm, if_true, place_shadow, h, place_i2cOpen, ho]; rfl) nofun
            (sim_writeI2CReg _ _ _ _ _) fun _ r1 _ => sim_ret fun rest => rfl
        · rename_i ho
          exact sim_fault fun rest => by rw [hs]; simp only [hi, hm, if_true, place_shadow, h, place_i2cOpen, ho]; rfl
    · rename_i hm; exact sim_fault fun rest => by rw [hs]; simp only [hi, hm]; rfl

/-- A loop of masked writes, by whatever frame runs it. -/
theorem sim_maskedAll (next : List MaskedWrite → Frame) (hn : ∀ ws, next ws ≠ .readSamplesData)
    (hnext : ∀ ws v s, resume (next ws) v s = match ws with
      | [] => .ret .unit s
      | w :: rest => callMasked w (next rest) s) (ws : List MaskedWrite) :
    ∀ (F : Frame) (lv : Value) (r : Run) (fs : List Frame),
      (∀ rest, resume F lv (place r fs lv rest) = resume (next ws) lv (place r fs lv rest)) →
      Sim (F :: fs) lv r fs unitValue (directMaskedAll O ws r) := by
  induction ws with
  | nil => intro F lv r fs hF; exact sim_ret fun rest => by rw [hF, hnext]; rfl
  | cons m ws ih =>
    intro F lv r fs hF
    exact sim_call (k := next ws) (fun rest => by rw [hF, hnext]; rfl) (hn ws) (sim_masked m r _)
      fun _ r1 _ => ih _ _ r1 fs fun _ => rfl

theorem sim_tunerBatch (ws : List MaskedWrite) (r : Run) (fs : List Frame) :
    Sim (.enter (.tunerBatch ws) :: fs) .unit r fs unitValue (directMaskedAll O ws r) :=
  sim_maskedAll .tunerBatchNext nofun (fun ws _ _ => by cases ws <;> rfl) ws _ _ r fs fun _ => rfl

theorem sim_setMux (f : Int) (r : Run) (fs : List Frame) :
    Sim (.enter (.tunerSetMux f) :: fs) .unit r fs unitValue (directSetMux O f r) := by
  refine sim_tuner (fun s => rfl) fun ht hs => ?_
  split
  · rename_i h; exact sim_fault fun rest => by rw [hs]; simp only [h, if_true]
  · rename_i h
    split
    · rename_i hm
      refine sim_fault fun rest => ?_
      rw [hs]; simp only [h, if_false, place_cfg]; rw [hm]
    · rename_i e hm
      refine sim_maskedAll .setMuxNext nofun (fun ws _ _ => by cases ws <;> rfl) _ _ _ r fs fun rest => ?_
      rw [hs]; simp only [h, if_false, place_cfg]; rw [hm]; rfl

theorem sim_attempt (a : Attempt) {g : Bool → Run → Result Bool}
    (hF : ∀ rest, resume F lv (place r fs lv rest) = loopGetPllLock a (place r fs lv rest))
    (hg : ∀ st r1, Sim (.getPllLockRead a :: fs) (.bytes st) r1 fs Value.bool (g (lockBitSet st) r1)) :
    Sim (F :: fs) lv r fs Value.bool ((directAttempt O a r).andThen g) := by
  simp only [directAttempt, andThen_assoc]
  exact sim_call (k := .getPllLockRead a) (fun rest => by rw [hF]; rfl) nofun (sim_readRegBuffer _ _ _ _)
    fun st r1 _ => hg st r1

/-- A set lock bit. -/
theorem sim_locked (a : Attempt) {st : List Byte} (h : lockBitSet st = true) (r : Run) (fs : List Frame) :
    Sim (.getPllLockRead a :: fs) (.bytes st) r fs Value.bool (directLocked r) :=
  sim_ret fun rest => by simp only [resume, afterGetPllLockRead, Value.asBytes, h, if_true]; rfl

theorem sim_secondAttempt (hF : ∀ rest, resume F lv (place r fs lv rest) = loopGetPllLock .second (place r fs lv rest)) :
    Sim (F :: fs) lv r fs Value.bool (directSecondAttempt O r) := by
  refine sim_attempt .second hF fun st r1 => ?_
  split
  · rename_i h; exact sim_locked .second h r1 fs
  · rename_i h
    exact sim_ret fun rest => by
      simp only [resume, afterGetPllLockRead, Value.asBytes, h, Bool.false_eq_true, if_false]; rfl

theorem sim_getPllLock (first : Bool) (r : Run) (fs : List Frame) :
    Sim (.enter (.tunerGetPllLock first) :: fs) .unit r fs Value.bool (directGetPllLock O first r) := by
  refine sim_tuner (fun s => rfl) fun ht hs => ?_
  split
  · rename_i hf
    subst hf
    refine sim_attempt .first (fun rest => by rw [hs]; rfl) fun st r1 => ?_
    split
    · rename_i h; exact sim_locked .first h r1 fs
    · rename_i h
      exact sim_call (k := .getPllLockNudged)
        (fun rest => by
          simp only [resume, afterGetPllLockRead, Value.asBytes, h, Bool.false_eq_true, if_false]; rfl)
        nofun (sim_masked ⟨_, _, _⟩ r1 _) fun _ r2 _ => sim_secondAttempt fun _ => rfl
  · rename_i hf
    exact sim_secondAttempt fun rest => by rw [hs]; simp only [hf, Bool.false_eq_true, if_false]

theorem SameButTuning.cfg {s t : State} (h : SameButTuning s t) : t.cfg = s.cfg := by rw [h]
theorem SameButTuning.crystal {s t : State} (h : SameButTuning s t) : crystal t = crystal s := by
  unfold Sys2Proof.Machine.crystal; rw [h]

theorem sim_synthesize {md : Rat} {nint : Int} {fra : Rat}
    (hF : ∀ rest, resume F lv (place r fs lv rest) =
      .call (.tunerWriteRegMask r.state.cfg.nisiReg (packNint nint) 0xFF) (.setPllNisiDone md nint fra)
        (place r fs lv rest)) :
    Sim (F :: fs) lv r fs Value.rat (directSynthesize O md nint fra r) := by
  unfold directSynthesize
  refine sim_call hF nofun (sim_masked ⟨_, _, _⟩ _ _) fun _ r4 e4 => ?_
  have k4 := ((masked_frame _ _).of_ok e4).tuning
  rw [← k4.cfg, ← k4.crystal]
  refine sim_call (k := .setPllFracDone md nint fra) (fun rest => rfl) nofun
    (sim_masked ⟨_, _, _⟩ _ _) fun _ r5 e5 => ?_
  have k5 := ((masked_frame _ _).of_ok e5).tuning
  rw [← k5.cfg, ← k5.crystal]
  generalize hsd : sigmaDelta fra (crystal r5.state) = sdm
  refine sim_call (k := .setPllSdmHiDone md nint sdm) (fun rest => by rw [← hsd]; rfl) nofun
    (sim_masked ⟨_, _, _⟩ _ _) fun _ r6 e6 => ?_
  have k6 := ((masked_frame _ _).of_ok e6).tuning
  rw [← k6.cfg, ← k6.crystal]
  refine sim_call (k := .setPllSdmLoDone md nint sdm) (fun rest => rfl) nofun
    (sim_masked ⟨_, _, _⟩ _ _) fun _ r7 e7 => ?_
  have k7 := ((masked_frame _ _).of_ok e7).tuning
  rw [← k7.cfg, ← k7.crystal]
  refine sim_call (k := .setPllLockDone md nint sdm) (fun rest => rfl) nofun
    (sim_getPllLock _ _ _) fun _ r8 e8 => ?_
  have k8 := (getPllLock_frame _ _).of_ok e8
  rw [← k8.cfg, ← k8.crystal]
  refine sim_call (k := .setPllPostLockDone md nint sdm) (fun rest => rfl) nofun
    (sim_masked ⟨_, _, _⟩ _ _) fun _ r9 e9 => ?_
  have k9 := ((masked_frame _ _).of_ok e9).tuning
  rw [← k9.crystal]
  exact sim_ret fun rest => rfl

theorem sim_setPll (f : Int) (r : Run) (fs : List Frame) :
    Sim (.enter (.tunerSetPll f) :: fs) .unit r fs Value.rat (directSetPll O f r) := by
  refine sim_tuner (fun s => rfl) fun ht hs => ?_
  split
  · rename_i hf
    refine sim_call (k := .setPllPreDone f (dividerExponent f) (mixDivOf (dividerExponent f)))
      (fun rest => by rw [hs]; simp only [hf, if_true]; rfl) nofun (sim_tunerBatch _ _ _) fun _ r1 e1 => ?_
    have k1 := ((maskedAll_frame _ _).of_ok e1).tuning
    rw [← k1.cfg]
    refine sim_call (k := .setPllFineTune f (dividerExponent f) (mixDivOf (dividerExponent f)))
      (fun rest => rfl) nofun (sim_readRegBuffer _ _ _ _) fun st r2 e2 => ?_
    have k2 := ((readRegBuffer_frame _ _ _).of_ok e2).shadow.tuning
    rw [← k2.cfg]
    refine sim_call (k := .setPllDividerDone f (mixDivOf (dividerExponent f)))
      (fun rest => rfl) nofun (sim_masked ⟨_, _, _⟩ _ _) fun _ r3 e3 => ?_
    generalize mixDivOf (dividerExponent f) = md
    unfold directParameters
    simp only
    split
    · rename_i h
      exact sim_ret fun rest => by simp only [resume, afterSetPllDivider, place_crystal, h, if_true]; rfl
    · rename_i h
      split
      · rename_i h'
        exact sim_fault fun rest => by simp only [resume, afterSetPllDivider, place_crystal, h, h', if_true, if_false]
      · rename_i h'
        exact sim_synthesize fun rest => by
          simp only [resume, afterSetPllDivider, place_crystal, h, h', if_false]; rfl
  · rename_i hf; exact sim_fault fun rest => by rw [hs]; simp only [hf]; rfl

theorem sim_setFrequency (f : Int) (r : Run) (fs : List Frame) :
    Sim (.enter (.tunerSetFrequency f) :: fs) .unit r fs Value.rat (directSetFrequency O f r) := by
  refine sim_tuner (fun s => rfl) fun ht hs => ?_
  split
  · rename_i hf
    refine sim_call (k := .setFrequencyMuxDone f) (fun rest => by rw [hs]; simp only [hf, if_true]) nofun
      (sim_setMux _ _ _) fun _ r1 _ => ?_
    exact sim_tail (k := .setFrequencyPllDone) (fun rest => rfl) nofun (sim_setPll _ _ _) fun _ r2 _ =>
      sim_ret fun rest => rfl
  · rename_i hf; exact sim_fault fun rest => by rw [hs]; simp only [hf]; rfl

/-- A pass of the calibration loop, with what follows it. -/
theorem sim_pass (again : Bool) {g : Int → Run → Result Int}
    (hF : ∀ rest, resume F lv (place r fs lv rest) = loopCalibrate again (place r fs lv rest))
    (hg : ∀ st r1, Sim (.calibrateStatusRead again :: fs) (.bytes st) r1 fs Value.int
      (g (calibrationCode st).toNat r1)) :
    Sim (F :: fs) lv r fs Value.int ((directCalibrationPass O r).andThen g) := by
  simp only [directCalibrationPass, andThen_assoc]
  refine sim_call (k := .calibratePreDone again) (fun rest => by rw [hF]; rfl) nofun (sim_tunerBatch _ _ _)
    fun _ r1 _ => ?_
  refine sim_call (k := .calibrateSynthDone again) (fun rest => rfl) nofun (sim_setPll _ _ _) fun _ r2 _ => ?_
  split
  · rename_i hl
    simp only [andThen_assoc]
    refine sim_call (k := .calibratePostDone again)
      (fun rest => by simp only [resume, afterCalibrateSynth, place_hasLock, hl, if_true]; rfl) nofun
      (sim_tunerBatch _ _ _) fun _ r3 _ => ?_
    exact sim_call (k := .calibrateStatusRead again) (fun rest => rfl) nofun (sim_readRegBuffer _ _ _ _)
      fun st r4 _ => hg st r4
  · rename_i hl
    exact sim_raise fun rest => by simp only [resume, afterCalibrateSynth, place_hasLock, hl]; rfl

theorem sim_lastPass (hF : ∀ rest, resume F lv (place r fs lv rest) = loopCalibrate false (place r fs lv rest)) :
    Sim (F :: fs) lv r fs Value.int (directCalibrationPass O r) := by
  rw [← andThen_ok (directCalibrationPass O r)]
  exact sim_pass false hF fun st r1 => sim_ret fun rest => by simp [resume, afterCalibrateStatus, Value.asBytes]

theorem sim_calibrateFilter (first : Bool) (r : Run) (fs : List Frame) :
    Sim (.enter (.tunerCalibrateFilter first) :: fs) .unit r fs Value.int (directCalibrateFilter O first r) := by
  refine sim_tuner (fun s => rfl) fun ht hs => ?_
  refine sim_pass first (fun rest => by rw [hs]) fun st r1 => ?_
  have hz : ((calibrationCode st).toNat : Int) ≠ 0 ↔ calibrationCode st ≠ 0 := by
    rw [ne_eq, ne_eq, not_iff_not, Int.natCast_eq_zero]
    exact ⟨fun h => BitVec.eq_of_toNat_eq (by simpa using h), fun h => by simp [h]⟩
  split
  · rename_i h
    exact sim_lastPass fun rest => if_pos ⟨hz.1 h.1, h.2⟩
  · rename_i h
    exact sim_ret fun rest => if_neg fun h' => h ⟨hz.2 h'.1, h'.2⟩

theorem sim_initElectronics (r : Run) (fs : List Frame) :
    Sim (.enter .tunerInitElectronics :: fs) .unit r fs unitValue (directInitElectronics O r) := by
  refine sim_tuner (fun s => rfl) fun ht hs => ?_
  refine sim_call (k := .initElectronicsPreDone) (fun rest => by rw [hs]; rfl) nofun (sim_tunerBatch _ _ _)
    fun _ r1 _ => ?_
  refine sim_call (k := .initElectronicsCalibrated) (fun rest => rfl) nofun (sim_calibrateFilter _ _ _)
    fun _ r2 _ => ?_
  exact sim_tail (k := .initElectronicsDone) (fun rest => rfl) nofun (sim_tunerBatch _ _ _) fun _ r3 _ =>
    sim_ret fun rest => rfl

/-- The image loop from cell `n` on. -/
theorem sim_image (k n : Nat) (hn : n + k = 27) {g : Unit → Run → Result Unit} :
    ∀ (F : Frame) (lv : Value) (r : Run),
    (∀ rest, resume F lv (place r fs lv rest) = loopTunerInit n (place r fs lv rest)) →
    (∀ r1, Sim (.tunerInitNext 27 :: fs) .unit r1 fs unitValue (g () r1)) →
    (n = 27 → Sim (F :: fs) lv r fs unitValue (g () r)) →
    Sim (F :: fs) lv r fs unitValue ((directImage O ((List.finRange 27).drop n) r).andThen g) := by
  induction k generalizing n with
  | zero =>
    intro F lv r hF hg h27
    have : n = 27 := by omega
    subst this
    exact h27 rfl
  | succ k ih =>
    intro F lv r hF hg _
    have hlt : n < 27 := by omega
    have hd : (List.finRange 27).drop n = ⟨n, hlt⟩ :: (List.finRange 27).drop (n + 1) := by
      rw [List.drop_eq_getElem_cons (by simpa using hlt)]
      simp
    rw [hd]
    simp only [directImage, andThen_assoc]
    refine sim_call (k := .tunerInitNext (n + 1)) (fun rest => by rw [hF]; simp only [loopTunerInit, hlt, dif_pos]; rfl)
      nofun (sim_writeI2CReg _ _ _ _ _) fun _ r1 _ => ?_
    refine ih (n + 1) (by omega) _ _ r1 (fun rest => rfl) hg fun h => ?_
    rw [h]
    exact hg r1

theorem sim_tunerInit (r : Run) (fs : List Frame) :
    Sim (.enter .tunerInit :: fs) .unit r fs unitValue (directTunerInit O r) := by
  refine sim_tuner (fun s => rfl) fun ht hs => ?_
  split
  · rename_i ho
    refine sim_image 27 0 rfl _ _ r (fun rest => by rw [hs]; simp only [place_i2cOpen, ho, if_true]) (fun r1 => ?_) nofun
    exact sim_tail (k := .tunerInitDone) (fun rest => rfl) nofun (sim_initElectronics _ _) fun _ r2 _ =>
      sim_ret fun rest => rfl
  · rename_i ho
    exact sim_fault fun rest => by rw [hs]; simp only [place_i2cOpen, ho]; rfl

theorem sim_standby (rows : List RegValue) : ∀ (F : Frame) (lv : Value) (r : Run) (fs : List Frame),
    (∀ rest, resume F lv (place r fs lv rest) = loopTunerClose rows (place r fs lv rest)) →
    Sim (F :: fs) lv r fs unitValue (directMaskedAll O (rows.map fun p => ⟨p.reg, p.value, 0xFF⟩) r) := by
  induction rows with
  | nil => intro F lv r fs hF; exact sim_ret fun rest => by rw [hF]; rfl
  | cons p rows ih =>
    intro F lv r fs hF
    exact sim_call (k := .tunerCloseNext rows) (fun rest => by rw [hF]; rfl) nofun (sim_masked ⟨_, _, _⟩ r _)
      fun _ r1 _ => ih _ _ r1 fs fun _ => rfl

theorem sim_tunerClose (r : Run) (fs : List Frame) :
    Sim (.enter .tunerClose :: fs) .unit r fs unitValue (directTunerClose O r) :=
  sim_tuner (fun s => rfl) fun _ hs => sim_standby _ _ _ r fs fun rest => by rw [hs]; rfl

theorem sim_setAutoGain (r : Run) (fs : List Frame) :
    Sim (.enter .tunerSetAutoGain :: fs) .unit r fs unitValue (directSetAutoGain O r) :=
  sim_tuner (fun s => rfl) fun _ hs =>
    sim_tail (k := .setAutoGainDone) (fun rest => by rw [hs]; rfl) nofun (sim_tunerBatch _ _ _) fun _ _ _ =>
      sim_ret fun rest => rfl

theorem sim_setManualGain (g : Rat) (r : Run) (fs : List Frame) :
    Sim (.enter (.tunerSetManualGain g) :: fs) .unit r fs unitValue (directSetManualGain O g r) := by
  refine sim_tuner (fun s => rfl) fun _ hs => ?_
  refine sim_call (k := .setManualGainPreDone g) (fun rest => by rw [hs]; rfl) nofun (sim_tunerBatch _ _ _)
    fun _ r1 _ => ?_
  simp only [gainWrites, directMaskedAll]
  refine sim_call (k := .setManualGainLnaDone (mixStep (gainStep r1.state.cfg g))) (fun rest => rfl) nofun
    (sim_masked ⟨_, _, _⟩ r1 _) fun _ r2 e2 => ?_
  have k2 := ((masked_frame _ _).of_ok e2).tuning
  rw [← k2.cfg]
  exact sim_call (k := .setManualGainMixDone) (fun rest => rfl) nofun (sim_masked ⟨_, _, _⟩ r2 _) fun _ r3 _ =>
    sim_ret fun rest => rfl

end Sys2Proof.Machine
end

