-- ==== Sys2Proof/Laws/FollowController.lean ====
section
/-! SUPPORT. The external commands, run by the machine, do what their direct style says; and what a run of statements
says of the steps of a command. -/

namespace Sys2Proof.Machine

set_option Elab.async false

variable {α β : Type} {O : Transport} {F : Frame} {fs : List Frame} {lv : Value} {r : Run} {w : α → Value}

/-- The precondition of an external command (R112). -/
theorem sim_session {x : Result α} {want : Session} {act : State → Act}
    (hF : ∀ s, resume F lv s = requireSession want s (act s))
    (h : r.state.session = want → (∀ rest, resume F lv (place r fs lv rest) = act (place r fs lv rest)) →
      Sim (F :: fs) lv r fs w x) : Sim (F :: fs) lv r fs w (directSession want r x) := by
  unfold directSession
  split
  · rename_i ht; exact h ht fun rest => by rw [hF]; simp [requireSession, ht]
  · rename_i ht; exact sim_fault fun rest => by rw [hF]; simp [requireSession, ht]

theorem sim_setGainInner (g : Option Rat) (r : Run) (fs : List Frame) :
    Sim (.enter (.setGainInner g) :: fs) .unit r fs unitValue (directSetGainInner O g r) := by
  cases g
  · exact sim_tail (k := .setGainInnerDone) (fun rest => rfl) nofun (sim_setAutoGain _ _) fun _ _ _ =>
      sim_ret fun rest => rfl
  · exact sim_tail (k := .setGainInnerDone) (fun rest => rfl) nofun (sim_setManualGain _ _ _) fun _ _ _ =>
      sim_ret fun rest => rfl

theorem sim_open (r : Run) (fs : List Frame) :
    Sim (.enter .controllerOpen :: fs) .unit r fs unitValue (directOpen O r) := by
  refine sim_session (fun s => rfl) fun _ hs => ?_
  refine sim_call (k := .openUsbDone) (fun rest => by rw [hs]; rfl) nofun (sim_writeEach _ _ _) fun _ r1 _ => ?_
  refine sim_call (k := .openClaimDone) (fun rest => rfl) nofun (sim_claim _ _) fun _ r2 _ => ?_
  refine sim_call (k := .openDemodDone) (fun rest => rfl) nofun (sim_writeEach _ _ _) fun _ r3 _ => ?_
  refine sim_call (k := .openRepeaterDone) (fun rest => rfl) nofun (sim_openI2C _ _) fun _ r4 _ => ?_
  refine sim_call (k := .openProbed) (fun rest => rfl) nofun (sim_check _ _) fun found r5 _ => ?_
  split
  · rename_i h
    unfold directBringUp
    refine sim_call (k := .openIfDone)
      (fun rest => by simp only [resume, afterOpenProbed, Value.asBool, h, if_true]; rfl) nofun
      (sim_writeEach _ _ _) fun _ r6 _ => ?_
    refine sim_call (k := .openInitDone) (fun rest => rfl) nofun (sim_tunerInit _ _) fun _ r7 _ => ?_
    refine sim_call (k := .openGainDone) (fun rest => rfl) nofun (sim_setGainInner _ _ _) fun _ r8 _ => ?_
    refine sim_call (k := .openCloseI2CDone) (fun rest => rfl) nofun (sim_closeI2C _ _) fun _ r9 _ => ?_
    exact sim_ret fun rest => rfl
  · rename_i h
    exact sim_raise fun rest => by simp only [resume, afterOpenProbed, Value.asBool, h]; rfl

theorem sim_setGain (g : Option Rat) (r : Run) (fs : List Frame) :
    Sim (.enter (.setGain g) :: fs) .unit r fs unitValue (directSetGain O g r) := by
  refine sim_session (fun s => rfl) fun _ hs => ?_
  refine sim_call (k := .setGainOpened g) (fun rest => by rw [hs]) nofun (sim_openI2C _ _) fun _ r1 _ => ?_
  refine sim_call (k := .setGainApplied) (fun rest => rfl) nofun (sim_setGainInner _ _ _) fun _ r2 _ => ?_
  exact sim_tail (k := .setGainClosed) (fun rest => rfl) nofun (sim_closeI2C _ _) fun _ r3 _ =>
    sim_ret fun rest => rfl

theorem sim_setSampleRate (f : Int) (r : Run) (fs : List Frame) :
    Sim (.enter (.setSampleRate f) :: fs) .unit r fs Value.rat (directSetSampleRate O f r) := by
  refine sim_session (fun s => rfl) fun _ hs => ?_
  split
  · rename_i h; exact sim_fault fun rest => by rw [hs]; simp only [h, if_true]
  rename_i h
  split
  · rename_i h'; exact sim_fault fun rest => by rw [hs]; simp only [h, h', if_true, if_false]
  rename_i h'
  refine sim_call (k := .setSampleRateRatioDone (achievedRate (sampleRatio f)))
    (fun rest => by rw [hs]; simp only [h, h', if_false]; rfl) nofun (sim_writeEach _ _ _) fun _ r1 _ => ?_
  refine sim_call (k := .setSampleRatePpmDone _) (fun rest => rfl) nofun (sim_writeEach _ _ _) fun _ r2 _ => ?_
  refine sim_call (k := .setSampleRateResetDone _) (fun rest => rfl) nofun (sim_writeEach _ _ _) fun _ r3 _ => ?_
  exact sim_ret fun rest => rfl

theorem sim_setCenterFrequency (f : Int) (r : Run) (fs : List Frame) :
    Sim (.enter (.setCenterFrequency f) :: fs) .unit r fs Value.rat (directSetCenterFrequency O f r) := by
  refine sim_session (fun s => rfl) fun _ hs => ?_
  split
  · rename_i h; exact sim_fault fun rest => by rw [hs]; simp only [h, if_true]
  rename_i h
  refine sim_call (k := .setCenterFrequencyOpened (f + IF_FREQ)) (fun rest => by rw [hs]; simp only [h, if_false])
    nofun (sim_openI2C _ _) fun _ r1 _ => ?_
  refine sim_call (k := .setCenterFrequencyTuned) (fun rest => rfl) nofun (sim_setFrequency _ _ _) fun a r2 _ => ?_
  refine sim_call (k := .setCenterFrequencyClosed a) (fun rest => rfl) nofun (sim_closeI2C _ _) fun _ r3 _ => ?_
  exact sim_ret fun rest => rfl

theorem sim_resetBuffer (r : Run) (fs : List Frame) :
    Sim (.enter .resetBuffer :: fs) .unit r fs unitValue (directResetBuffer O r) :=
  sim_session (fun s => rfl) fun _ hs =>
    sim_call (k := .resetBufferDone) (fun rest => by rw [hs]; rfl) nofun (sim_writeEach _ _ _) fun _ _ _ =>
      sim_ret fun rest => rfl

theorem sim_close (r : Run) (fs : List Frame) :
    Sim (.enter .controllerClose :: fs) .unit r fs unitValue (directClose O r) := by
  refine sim_session (fun s => rfl) fun _ hs => ?_
  refine sim_call (k := .closeOpened) (fun rest => by rw [hs]) nofun (sim_openI2C _ _) fun _ r1 _ => ?_
  refine sim_call (k := .closeTunerDone) (fun rest => rfl) nofun (sim_tunerClose _ _) fun _ r2 _ => ?_
  refine sim_call (k := .closeRepeaterDone) (fun rest => rfl) nofun (sim_closeI2C _ _) fun _ r3 _ => ?_
  refine sim_call (k := .closeReleased) (fun rest => rfl) nofun (sim_release _ _) fun _ r4 _ => ?_
  exact sim_ret fun rest => rfl

/-! ### From runs of statements to steps -/

/-- The end of an operation with no frame below it. -/
def Result.end (x : Result α) (w : α → Value) (rest : List Answer) : Host.Outcome State Fault Refusal :=
  match x with
  | .ok v r => .next (respond (w v) (place r [] .unit rest))
  | .error e r => .next (errorEntry e (place r [] .unit rest))
  | .fault f _ => .fault f

/-- An operation that the machine begins with an empty stack reaches its direct style's end. -/
theorem begin_reaches {x : Result α} {op : Op} {s : State} (hs : Sim [.enter op] .unit (Run.start s) [] w x)
    (hc : configured s = true) (hf : s.frames = []) (hi : s.inflight = none) (rest : List Answer) :
    Reaches (begin op { s with answers := x.answers ++ rest }) (x.end w rest) := by
  have hp : ∀ a, ({ s with answers := a } : State).entering op = place (Run.start s) [.enter op] .unit a := by
    intro a; simp only [State.entering, place, Run.start, hf, hi]
  have key : ∀ a o, Ends (place (Run.start s) [.enter op] .unit a) o → Reaches (begin op { s with answers := a }) o := by
    intro a o h
    unfold begin advance
    rw [hp]
    exact h.reaches hc rfl (List.cons_ne_nil _ _) _
  cases x with
  | ok v r =>
    obtain ⟨a, ha, h⟩ := hs
    simp only [Run.start, List.nil_append] at ha
    simp only [Result.answers, ha]
    exact key _ _ (h rest _ rfl)
  | error e r =>
    obtain ⟨a, ha, h⟩ := hs
    simp only [Run.start, List.nil_append] at ha
    simp only [Result.answers, ha]
    exact key _ _ (h rest)
  | fault f r =>
    obtain ⟨a, ha, h⟩ := hs
    simp only [Run.start, List.nil_append] at ha
    simp only [Result.answers, ha]
    exact key _ _ (h rest)

end Sys2Proof.Machine
end

