-- ==== Sys2Proof/Laws/PerInstr.lean ====
section
/-! SUPPORT. Per-instruction laws: for every constructor of `Instr`, a well-formed instruction is read back from its
record (R50, R51, R57). -/

namespace Sys2Proof.Laws

set_option Elab.async false

/-- A WriteCommand is read back from its record; an unknown one, if R51 has no form for it. -/
theorem decodeWC_encodeWC (c : WriteCommand) (h : c.wellFormed = true) : decodeWC (encodeWC c) = c := by
  cases c with
  | unknown t fs =>
    simp only [encodeWC, decodeWC]
    split <;> first | rfl | (rename_i ht; simp [WriteCommand.wellFormed, fieldCount, ht] at h)
  | _ => rfl

/-- So is a list of them. -/
theorem decodeWCs_encodeWC : ∀ cs : List WriteCommand, cs.all WriteCommand.wellFormed = true →
    (cs.map encodeWC).map decodeWC = cs
  | [], _ => rfl
  | c :: cs, h => by
    simp only [List.all_cons, Bool.and_eq_true] at h
    rw [List.map_cons, List.map_cons, decodeWC_encodeWC c h.1, decodeWCs_encodeWC cs h.2]

/-- A well-formed instruction is read back from its record. -/
def RoundTrip.Statement (i : Instr) : Prop := i.wellFormed = true → decode (encode i) = .instr i

theorem RoundTrip.writeReg (block reg value width : Int) : RoundTrip.Statement (.writeReg block reg value width) :=
  fun _ => rfl

theorem RoundTrip.readReg (block reg width : Int) : RoundTrip.Statement (.readReg block reg width) := fun _ => rfl

theorem RoundTrip.writeRegMask (block reg value mask : Int) : RoundTrip.Statement (.writeRegMask block reg value mask) :=
  fun _ => rfl

theorem RoundTrip.writeDemodReg (page addr value width : Int) : RoundTrip.Statement (.writeDemodReg page addr value width) :=
  fun _ => rfl

theorem RoundTrip.readDemodReg (page addr : Int) : RoundTrip.Statement (.readDemodReg page addr) := fun _ => rfl

theorem RoundTrip.openI2C : RoundTrip.Statement .openI2C := fun _ => rfl

theorem RoundTrip.closeI2C : RoundTrip.Statement .closeI2C := fun _ => rfl

theorem RoundTrip.readI2CReg (dev reg : Int) : RoundTrip.Statement (.readI2CReg dev reg) := fun _ => rfl

theorem RoundTrip.writeI2CReg (dev reg value : Int) : RoundTrip.Statement (.writeI2CReg dev reg value) :=
  fun _ => rfl

theorem RoundTrip.readI2CRegBuffer (dev reg n : Int) : RoundTrip.Statement (.readI2CRegBuffer dev reg n) :=
  fun _ => rfl

theorem RoundTrip.writeI2CRegBuffer (dev reg : Int) (bytes : List Byte) : RoundTrip.Statement (.writeI2CRegBuffer dev reg bytes) :=
  fun _ => rfl

theorem RoundTrip.writeEach (commands : List WriteCommand) : RoundTrip.Statement (.writeEach commands) := by
  intro h
  simp only [Instr.wellFormed] at h
  show Decoded.instr (.writeEach ((commands.map encodeWC).map decodeWC)) = _
  rw [decodeWCs_encodeWC _ h]

theorem RoundTrip.claimInterface : RoundTrip.Statement .claimInterface := fun _ => rfl

theorem RoundTrip.releaseInterface : RoundTrip.Statement .releaseInterface := fun _ => rfl

theorem RoundTrip.readBulk (n : Int) : RoundTrip.Statement (.readBulk n) := fun _ => rfl

theorem RoundTrip.tunerCheck : RoundTrip.Statement .tunerCheck := fun _ => rfl

theorem RoundTrip.tunerInit : RoundTrip.Statement .tunerInit := fun _ => rfl

theorem RoundTrip.tunerInitElectronics : RoundTrip.Statement .tunerInitElectronics := fun _ => rfl

theorem RoundTrip.tunerSetFrequency (freq : Int) : RoundTrip.Statement (.tunerSetFrequency freq) := fun _ => rfl

theorem RoundTrip.tunerSetMux (freq : Int) : RoundTrip.Statement (.tunerSetMux freq) := fun _ => rfl

theorem RoundTrip.tunerSetPll (freq : Int) : RoundTrip.Statement (.tunerSetPll freq) := fun _ => rfl

theorem RoundTrip.tunerGetPllLock (first : Bool) : RoundTrip.Statement (.tunerGetPllLock first) := fun _ => rfl

theorem RoundTrip.tunerCalibrateFilter (first : Bool) : RoundTrip.Statement (.tunerCalibrateFilter first) :=
  fun _ => rfl

theorem RoundTrip.tunerSetAutoGain : RoundTrip.Statement .tunerSetAutoGain := fun _ => rfl

theorem RoundTrip.tunerSetManualGain (gainDb : Rat) : RoundTrip.Statement (.tunerSetManualGain gainDb) :=
  fun _ => rfl

theorem RoundTrip.tunerReadRegBuffer (addr n : Int) : RoundTrip.Statement (.tunerReadRegBuffer addr n) :=
  fun _ => rfl

theorem RoundTrip.tunerWriteRegMask (addr value mask : Int) : RoundTrip.Statement (.tunerWriteRegMask addr value mask) :=
  fun _ => rfl

theorem RoundTrip.tunerClose : RoundTrip.Statement .tunerClose := fun _ => rfl

theorem RoundTrip.controllerOpen : RoundTrip.Statement .controllerOpen := fun _ => rfl

theorem RoundTrip.setSampleRate (rateHz : Int) : RoundTrip.Statement (.setSampleRate rateHz) := fun _ => rfl

theorem RoundTrip.setCenterFrequency (freqHz : Int) : RoundTrip.Statement (.setCenterFrequency freqHz) :=
  fun _ => rfl

theorem RoundTrip.setGain (gain : Option Rat) : RoundTrip.Statement (.setGain gain) := fun _ => by cases gain <;> rfl

theorem RoundTrip.resetBuffer : RoundTrip.Statement .resetBuffer := fun _ => rfl

theorem RoundTrip.readSamples (count : Int) : RoundTrip.Statement (.readSamples count) := fun _ => rfl

theorem RoundTrip.controllerClose : RoundTrip.Statement .controllerClose := fun _ => rfl

theorem RoundTrip.wcReg (block reg value width : Int) : RoundTrip.Statement (.wcReg block reg value width) :=
  fun _ => rfl

theorem RoundTrip.wcRegMask (block reg value mask : Int) : RoundTrip.Statement (.wcRegMask block reg value mask) :=
  fun _ => rfl

theorem RoundTrip.wcDemodReg (page addr value width : Int) : RoundTrip.Statement (.wcDemodReg page addr value width) :=
  fun _ => rfl

theorem RoundTrip.wcI2CReg (dev reg value : Int) : RoundTrip.Statement (.wcI2CReg dev reg value) := fun _ => rfl

end Sys2Proof.Laws
end

