-- ==== Sys2Proof/Machine/Text.lean ====
section
/-! DEFINITION. The text form of programs (R61) and the pseudo-operations (R62). No step reads them: the text form is
how a program is written down, and its records are what the command port takes. -/

namespace Sys2Proof.Machine

/-- The operand types of R57, as the text form tells them apart. -/
inductive OperandType where
  | int
  | block
  | bool
  | rat
  /-- a rational or `none` -/
  | gain
  | bytes
  | records
deriving DecidableEq, Repr

/-- The mnemonics of R57, their opcodes and the types of their operands. -/
def mnemonics : List (String × Byte × List OperandType) :=
  [("writeReg", 0x01, [.block, .int, .int, .int]), ("readReg", 0x02, [.block, .int, .int]),
   ("writeRegMask", 0x03, [.block, .int, .int, .int]), ("writeDemodReg", 0x04, [.int, .int, .int, .int]),
   ("readDemodReg", 0x05, [.int, .int]), ("openI2C", 0x06, []), ("closeI2C", 0x07, []),
   ("readI2CReg", 0x08, [.int, .int]), ("writeI2CReg", 0x09, [.int, .int, .int]),
   ("readI2CRegBuffer", 0x0A, [.int, .int, .int]), ("writeI2CRegBuffer", 0x0B, [.int, .int, .bytes]),
   ("writeEach", 0x0C, [.records]), ("claimInterface", 0x0D, []), ("releaseInterface", 0x0E, []),
   ("readBulk", 0x0F, [.int])] ++
  [("tuner.check", 0x20, []), ("tuner.init", 0x21, []), ("tuner.initElectronics", 0x22, []),
   ("tuner.setFrequency", 0x23, [.int]), ("tuner.setMux", 0x24, [.int]), ("tuner.setPll", 0x25, [.int]),
   ("tuner.getPllLock", 0x26, [.bool]), ("tuner.calibrateFilter", 0x27, [.bool]), ("tuner.setAutoGain", 0x28, []),
   ("tuner.setManualGain", 0x29, [.rat]), ("tuner.readRegBuffer", 0x2A, [.int, .int]),
   ("tuner.writeRegMask", 0x2B, [.int, .int, .int]), ("tuner.close", 0x2C, [])] ++
  [("open", 0x40, []), ("setSampleRate", 0x41, [.int]), ("setCenterFrequency", 0x42, [.int]),
   ("setGain", 0x43, [.gain]), ("resetBuffer", 0x44, []), ("readSamples", 0x45, [.int]), ("close", 0x46, [])]

/-! ### Tokens -/

/-- The brackets and the comma stand for themselves, with or without spaces around them. -/
def isPunctuation (c : Char) : Bool := c == '[' || c == ']' || c == '(' || c == ')' || c == ','

/-- Adds a word read backwards to the tokens after it. -/
def pushWord (word : List Char) (rest : List (List Char)) : List (List Char) :=
  match word with
  | [] => rest
  | _ :: _ => word.reverse :: rest

/-- The tokens of a line; `#` starts a comment. DESIGN CHOICE (log entry 23): beside R61's spaces, a tab and a carriage
return separate tokens too. -/
def tokens : List Char → List Char → List (List Char)
  | word, [] => pushWord word []
  | word, c :: cs =>
    if c == '#' then pushWord word []
    else if c == ' ' || c == '\t' || c == '\r' then pushWord word (tokens [] cs)
    else if isPunctuation c then pushWord word ([c] :: tokens [] cs)
    else tokens (c :: word) cs

/-- The lines of a text. -/
def lines : List Char → List Char → List (List Char)
  | line, [] => [line.reverse]
  | line, c :: cs => if c == '\n' then line.reverse :: lines [] cs else lines (c :: line) cs

/-! ### Numbers -/

/-- The value of a hexadecimal digit. -/
def digit (c : Char) : Option Nat :=
  if '0' ≤ c ∧ c ≤ '9' then some (c.toNat - 48)
  else if 'a' ≤ c ∧ c ≤ 'f' then some (c.toNat - 87)
  else if 'A' ≤ c ∧ c ≤ 'F' then some (c.toNat - 55)
  else none

/-- The digits after the ones read; `_` separates digits. DESIGN CHOICE (log entry 23): R61 does not place the separators,
and one may follow another or stand last. -/
def moreDigits (base acc : Nat) : List Char → Option Nat
  | [] => some acc
  | c :: cs =>
    if c == '_' then moreDigits base acc cs
    else
      match digit c with
      | some d => if d < base then moreDigits base (acc * base + d) cs else none
      | none => none

/-- A number of one digit or more. -/
def readNat (base : Nat) : List Char → Option Nat
  | [] => none
  | c :: cs => if c == '_' then none else moreDigits base 0 (c :: cs)

/-- An unsigned integer, decimal or `0x` hexadecimal. -/
def readUnsigned : List Char → Option Nat
  | '0' :: 'x' :: cs => readNat 16 cs
  | cs => readNat 10 cs

/-- An integer. -/
def readInt : List Char → Option Int
  | '-' :: cs => (readUnsigned cs).map fun n => -(n : Int)
  | cs => (readUnsigned cs).map fun n => (n : Int)

/-- The digits of a token without its separators. -/
def withoutSeparators (cs : List Char) : List Char := cs.filter fun c => c != '_'

/-- An unsigned rational: `p/q`, or decimal with or without a fraction. DESIGN CHOICE (log entry 23): a decimal point has a
digit on each side, and `p`, `q` and a whole number may be hexadecimal, as integers are; R61 says only `p/q` or
decimal. -/
def readUnsignedRat (cs : List Char) : Option Rat :=
  let a := cs.takeWhile fun c => c != '/' && c != '.'
  match cs.dropWhile fun c => c != '/' && c != '.' with
  | [] => (readUnsigned a).map fun n => (n : Rat)
  | '/' :: b =>
    match readUnsigned a, readUnsigned b with
    | some p, some q => if q = 0 then none else some ((p : Rat) / q)
    | _, _ => none
  | _ :: b =>
    match readNat 10 a, readNat 10 b with
    | some p, some f => some ((p : Rat) + (f : Rat) / 10 ^ (withoutSeparators b).length)
    | _, _ => none

/-- A rational. -/
def readRat : List Char → Option Rat
  | '-' :: cs => (readUnsignedRat cs).map fun q => -q
  | cs => readUnsignedRat cs

/-! ### Operands -/

/-- A block name (R51, R61). -/
def readBlock (t : List Char) : Option Int :=
  if t = "DEMOD".toList then some 0
  else if t = "USB".toList then some 1
  else if t = "SYS".toList then some 2
  else if t = "I2C".toList then some 3
  else none

/-- The bytes after the opening bracket of a byte list, and the tokens after it. DESIGN CHOICE (log entry 23): a comma may
stand before the closing bracket. -/
def readBytes : List (List Char) → Option (List Byte × List (List Char))
  | [']'] :: ts => some ([], ts)
  | t :: [']'] :: ts => (readByte t).map fun b => ([b], ts)
  | t :: [','] :: ts =>
    match readByte t, readBytes ts with
    | some b, some (bs, rest) => some (b :: bs, rest)
    | _, _ => none
  | _ => none
where
  /-- A byte: an integer in 0..255. -/
  readByte (t : List Char) : Option Byte :=
    match readInt t with
    | some v => if 0 ≤ v ∧ v ≤ 255 then some (byteOf v) else none
    | none => none

/-- The fields of a WriteCommand after its opening parenthesis: a block name where `block` says so, then integers. -/
def readFields (block : Bool) : List (List Char) → Option (List Int × List (List Char))
  | t :: [')'] :: ts => (readField block t).map fun v => ([v], ts)
  | t :: [','] :: ts =>
    match readField block t, readFields false ts with
    | some v, some (vs, rest) => some (v :: vs, rest)
    | _, _ => none
  | _ => none
where
  /-- One field. -/
  readField (block : Bool) (t : List Char) : Option Int := if block then readBlock t else readInt t

/-- The tag of a WriteCommand variant, its number of fields, and whether the first is a block (R51). -/
def variant (t : List Char) : Option (Byte × Nat × Bool) :=
  if t = "Reg".toList then some (0x00, 4, true)
  else if t = "RegMask".toList then some (0x01, 4, true)
  else if t = "DemodReg".toList then some (0x02, 4, false)
  else if t = "I2CReg".toList then some (0x03, 3, false)
  else none

/-- One WriteCommand and the tokens after it. -/
def readWC : List (List Char) → Option (WCRecord × List (List Char))
  | t :: ['('] :: ts =>
    match variant t with
    | none => none
    | some (tag, n, block) =>
      match readFields block ts with
      | some (vs, rest) => if vs.length = n then some (⟨tag, vs⟩, rest) else none
      | none => none
  | _ => none

/-- The WriteCommands after the opening bracket of a WC list, at most `fuel` of them. DESIGN CHOICE (log entry 23): a comma
may stand before the closing bracket. -/
def readWCs : Nat → List (List Char) → Option (List WCRecord × List (List Char))
  | 0, _ => none
  | _ + 1, [']'] :: ts => some ([], ts)
  | fuel + 1, ts =>
    match readWC ts with
    | some (c, [']'] :: rest) => some ([c], rest)
    | some (c, [','] :: rest) =>
      match readWCs fuel rest with
      | some (cs, rest) => some (c :: cs, rest)
      | none => none
    | _ => none

/-- A boolean. -/
def readBool (t : List Char) : Option Bool :=
  if t = "true".toList then some true else if t = "false".toList then some false else none

/-- The absent gain or a rational. -/
def readGain (t : List Char) : Option Operand :=
  if t = "none".toList then some .absent else (readRat t).map Operand.rat

/-- One operand of a type, and the tokens after it. -/
def readOperand (ty : OperandType) (ts : List (List Char)) : Option (Operand × List (List Char)) :=
  match ts with
  | [] => none
  | t :: rest =>
    match ty with
    | .int => (readInt t).map fun v => (.int v, rest)
    | .block => (readBlock t).map fun v => (.int v, rest)
    | .bool => (readBool t).map fun b => (.bool b, rest)
    | .rat => (readRat t).map fun q => (.rat q, rest)
    | .gain => (readGain t).map fun o => (o, rest)
    | .bytes => if t = ['['] then (readBytes rest).map fun (bs, rest) => (.bytes bs, rest) else none
    | .records => if t = ['['] then (readWCs (rest.length + 1) rest).map fun (cs, rest) => (.records cs, rest) else none

/-- The operands of a command, and nothing after them. -/
def readOperands : List OperandType → List (List Char) → Option (List Operand)
  | [], [] => some []
  | [], _ :: _ => none
  | ty :: tys, ts =>
    match readOperand ty ts with
    | some (o, rest) => (readOperands tys rest).map fun os => o :: os
    | none => none

/-! ### Programs -/

/-- The record of a command line. -/
def readCommand : List (List Char) → Option Record
  | [] => none
  | t :: ts =>
    match mnemonics.find? fun m => m.1.toList == t with
    | some (_, opcode, tys) => (readOperands tys ts).map fun os => ⟨opcode, os⟩
    | none => none

/-- The records of the lines of a program; a line with no tokens is no command. -/
def readLines : List (List Char) → Option (List Record)
  | [] => some []
  | l :: ls =>
    match tokens [] l with
    | [] => readLines ls
    | t :: ts =>
      match readCommand (t :: ts), readLines ls with
      | some r, some rs => some (r :: rs)
      | _, _ => none

/-- The records of a program text (R61); none where a line is not one of its commands. -/
def readProgram (text : String) : Option (List Record) := readLines (lines [] text.toList)

/-! ### Pseudo-operations -/

/-- `resetDemodulator` (R62). -/
def resetDemodulator (c : Config) : List Instr := [.writeEach c.softReset]

/-- `writeIFMultiplier m` (R62). -/
def writeIFMultiplier (c : Config) (m : Int) : List Instr := [.writeEach (evalBatch c.ifWrites m)]

end Sys2Proof.Machine
end

