-- ==== Sys2Proof/Tests/Slice0.lean ====
section
/-! SUPPORT. Tests: ill-formed terms, records written out from the tables, single steps whose outcome the
specification's vectors give (file 95; the section is named), and for each statement with hypotheses a witness that
meets them. -/

namespace Sys2Proof.Machine.Tests

set_option Elab.async false

/-! ### Well-formedness refuses -/

theorem test_wellFormed_block : (Instr.writeReg 4 0 0 1).wellFormed = false := by decide
theorem test_wellFormed_offset : (Instr.readReg 0 0x10000 1).wellFormed = false := by decide
theorem test_wellFormed_width : (Instr.readReg 0 0 3).wellFormed = false := by decide
theorem test_wellFormed_value : (Instr.writeReg 0 0 0x100 1).wellFormed = false := by decide
theorem test_wellFormed_negative : (Instr.writeDemodReg 0 0 (-1) 4).wellFormed = false := by decide
theorem test_wellFormed_mask : (Instr.writeRegMask 0 0 0 256).wellFormed = false := by decide
theorem test_wellFormed_page : (Instr.readDemodReg 16 0).wellFormed = false := by decide
theorem test_wellFormed_demodAddr : (Instr.readDemodReg 0 256).wellFormed = false := by decide
theorem test_wellFormed_device : (Instr.readI2CReg 256 0).wellFormed = false := by decide
theorem test_wellFormed_i2cValue : (Instr.writeI2CReg 0x34 0 256).wellFormed = false := by decide
theorem test_wellFormed_count : (Instr.readI2CRegBuffer 0x34 0 0).wellFormed = false := by decide
theorem test_wellFormed_noBytes : (Instr.writeI2CRegBuffer 0x34 0 []).wellFormed = false := by decide
theorem test_wellFormed_record : (Instr.writeEach [.i2cReg 0x34 256 0]).wellFormed = false := by decide
theorem test_wellFormed_tag : (Instr.writeEach [.unknown 0x03 [0x34, 5, 6]]).wellFormed = false := by decide
theorem test_wellFormed_bulk : (Instr.readBulk 0).wellFormed = false := by decide
theorem test_wellFormed_frequency : (Instr.tunerSetPll 1770000001).wellFormed = false := by decide
theorem test_wellFormed_setFrequency : (Instr.tunerSetFrequency 0).wellFormed = false := by decide
theorem test_wellFormed_mux : (Instr.tunerSetMux (-1)).wellFormed = false := by decide
theorem test_wellFormed_buffer : (Instr.tunerReadRegBuffer 0x1E 3).wellFormed = false := by decide
theorem test_wellFormed_shadow : (Instr.tunerWriteRegMask 0x04 0 0xFF).wellFormed = false := by decide
theorem test_wellFormed_samples : (Instr.readSamples 0).wellFormed = false := by decide
theorem test_wellFormed_wcReg : (Instr.wcReg 4 0 0 1).wellFormed = false := by decide
theorem test_wellFormed_wcRegMask : (Instr.wcRegMask 0 0 0 256).wellFormed = false := by decide
theorem test_wellFormed_wcDemodReg : (Instr.wcDemodReg 16 0 0 1).wellFormed = false := by decide
theorem test_wellFormed_wcI2CReg : (Instr.wcI2CReg 0x34 256 0).wellFormed = false := by decide

/-! ### The configuration's checks refuse (R8) -/

theorem test_config_fixture : Config.wellFormed Config.fixture = true := by decide +kernel
theorem test_config_image : okInitImage { Config.fixture with initImage := [0] } = false := by decide +kernel
theorem test_config_muxStart :
    okMuxTable { Config.fixture with muxTable := [⟨10, 0, 0, 0, 0⟩] } = false := by decide +kernel
theorem test_config_muxOrder :
    okMuxTable { Config.fixture with muxTable := [⟨0, 0, 0, 0, 0⟩, ⟨50, 0, 0, 0, 0⟩, ⟨50, 0, 0, 0, 0⟩] } = false := by
  decide +kernel
theorem test_config_muxFields : okMuxFields { Config.fixture with muxFields := [] } = false := by decide +kernel
theorem test_config_standby : okStandbyTable { Config.fixture with standbyTable := [] } = false := by decide +kernel
theorem test_config_register : okRegisters { Config.fixture with divReg := 0x04 } = false := by decide +kernel
theorem test_config_mask : okMasks { Config.fixture with divMask := 256 } = false := by decide +kernel
theorem test_config_fold : okFold { Config.fixture with initElecPost := [] } = false := by decide +kernel
theorem test_config_ftByte : okFtByte { Config.fixture with ftByte := 5 } = false := by decide +kernel
theorem test_config_status : okStatusReads { Config.fixture with lockAddr := 0x1E } = false := by decide +kernel
theorem test_config_ftClass : okFtClass { Config.fixture with ftClass := [] } = false := by decide +kernel
theorem test_config_ppm : okPpm (-1000000) = false := by decide

/-! ### Decoding: a record for every row of the table -/

theorem test_decode_writeReg :
    decode (.cmd ⟨0x01, [.int 1, .int 0x2148, .int 0x0210, .int 2]⟩) = .instr (.writeReg 1 0x2148 0x0210 2) := rfl
theorem test_decode_readReg :
    decode (.cmd ⟨0x02, [.int 2, .int 0x3000, .int 2]⟩) = .instr (.readReg 2 0x3000 2) := rfl
theorem test_decode_writeRegMask :
    decode (.cmd ⟨0x03, [.int 2, .int 0x3000, .int 8, .int 9]⟩) = .instr (.writeRegMask 2 0x3000 8 9) := rfl
theorem test_decode_writeDemodReg :
    decode (.cmd ⟨0x04, [.int 1, .int 0x9F, .int 0x0399, .int 2]⟩) = .instr (.writeDemodReg 1 0x9F 0x0399 2) := rfl
theorem test_decode_readDemodReg : decode (.cmd ⟨0x05, [.int 10, .int 1]⟩) = .instr (.readDemodReg 10 1) := rfl
theorem test_decode_openI2C : decode (.cmd ⟨0x06, []⟩) = .instr (.openI2C) := rfl
theorem test_decode_closeI2C : decode (.cmd ⟨0x07, []⟩) = .instr (.closeI2C) := rfl
theorem test_decode_readI2CReg : decode (.cmd ⟨0x08, [.int 0x34, .int 1]⟩) = .instr (.readI2CReg 0x34 1) := rfl
theorem test_decode_writeI2CReg :
    decode (.cmd ⟨0x09, [.int 0x34, .int 0x10, .int 0xA0]⟩) = .instr (.writeI2CReg 0x34 0x10 0xA0) := rfl
theorem test_decode_readI2CRegBuffer :
    decode (.cmd ⟨0x0A, [.int 0x34, .int 1, .int 5]⟩) = .instr (.readI2CRegBuffer 0x34 1 5) := rfl
theorem test_decode_writeI2CRegBuffer :
    decode (.cmd ⟨0x0B, [.int 0x34, .int 0x15, .bytes [0x71, 0x1C]]⟩) = .instr (.writeI2CRegBuffer 0x34 0x15 [0x71, 0x1C]) := rfl
theorem test_decode_writeEach :
    decode (.cmd ⟨0x0C, [.records [⟨0x03, [0x34, 5, 6]⟩, ⟨0x04, [7]⟩]]⟩) = .instr (.writeEach [.i2cReg 0x34 5 6, .unknown 0x04 [7]]) := rfl
theorem test_decode_claimInterface : decode (.cmd ⟨0x0D, []⟩) = .instr (.claimInterface) := rfl
theorem test_decode_releaseInterface : decode (.cmd ⟨0x0E, []⟩) = .instr (.releaseInterface) := rfl
theorem test_decode_readBulk : decode (.cmd ⟨0x0F, [.int 4]⟩) = .instr (.readBulk 4) := rfl
theorem test_decode_tunerCheck : decode (.cmd ⟨0x20, []⟩) = .instr (.tunerCheck) := rfl
theorem test_decode_tunerInit : decode (.cmd ⟨0x21, []⟩) = .instr (.tunerInit) := rfl
theorem test_decode_tunerInitElectronics : decode (.cmd ⟨0x22, []⟩) = .instr (.tunerInitElectronics) := rfl
theorem test_decode_tunerSetFrequency :
    decode (.cmd ⟨0x23, [.int 56000000]⟩) = .instr (.tunerSetFrequency 56000000) := rfl
theorem test_decode_tunerSetMux : decode (.cmd ⟨0x24, [.int 50000000]⟩) = .instr (.tunerSetMux 50000000) := rfl
theorem test_decode_tunerSetPll : decode (.cmd ⟨0x25, [.int 56000000]⟩) = .instr (.tunerSetPll 56000000) := rfl
theorem test_decode_tunerGetPllLock : decode (.cmd ⟨0x26, [.bool true]⟩) = .instr (.tunerGetPllLock true) := rfl
theorem test_decode_tunerCalibrateFilter :
    decode (.cmd ⟨0x27, [.bool true]⟩) = .instr (.tunerCalibrateFilter true) := rfl
theorem test_decode_tunerSetAutoGain : decode (.cmd ⟨0x28, []⟩) = .instr (.tunerSetAutoGain) := rfl
theorem test_decode_tunerSetManualGain : decode (.cmd ⟨0x29, [.rat 7]⟩) = .instr (.tunerSetManualGain 7) := rfl
theorem test_decode_tunerReadRegBuffer :
    decode (.cmd ⟨0x2A, [.int 1, .int 3]⟩) = .instr (.tunerReadRegBuffer 1 3) := rfl
theorem test_decode_tunerWriteRegMask :
    decode (.cmd ⟨0x2B, [.int 0x10, .int 0x80, .int 0xE0]⟩) = .instr (.tunerWriteRegMask 0x10 0x80 0xE0) := rfl
theorem test_decode_tunerClose : decode (.cmd ⟨0x2C, []⟩) = .instr (.tunerClose) := rfl
theorem test_decode_controllerOpen : decode (.cmd ⟨0x40, []⟩) = .instr (.controllerOpen) := rfl
theorem test_decode_setSampleRate : decode (.cmd ⟨0x41, [.int 2000000]⟩) = .instr (.setSampleRate 2000000) := rfl
theorem test_decode_setCenterFrequency :
    decode (.cmd ⟨0x42, [.int 1090000000]⟩) = .instr (.setCenterFrequency 1090000000) := rfl
theorem test_decode_setGain : decode (.cmd ⟨0x43, [.absent]⟩) = .instr (.setGain none) := rfl
theorem test_decode_resetBuffer : decode (.cmd ⟨0x44, []⟩) = .instr (.resetBuffer) := rfl
theorem test_decode_readSamples : decode (.cmd ⟨0x45, [.int 2]⟩) = .instr (.readSamples 2) := rfl
theorem test_decode_controllerClose : decode (.cmd ⟨0x46, []⟩) = .instr (.controllerClose) := rfl
theorem test_decode_wcReg : decode (.wc ⟨0x00, [1, 0x2148, 0x0210, 2]⟩) = .instr (.wcReg 1 0x2148 0x0210 2) := rfl
theorem test_decode_wcRegMask : decode (.wc ⟨0x01, [2, 0x3000, 8, 9]⟩) = .instr (.wcRegMask 2 0x3000 8 9) := rfl
theorem test_decode_wcDemodReg :
    decode (.wc ⟨0x02, [1, 0x9F, 0x0399, 2]⟩) = .instr (.wcDemodReg 1 0x9F 0x0399 2) := rfl
theorem test_decode_wcI2CReg : decode (.wc ⟨0x03, [0x34, 5, 6]⟩) = .instr (.wcI2CReg 0x34 5 6) := rfl

theorem test_decode_zeroGain : decode (.cmd ⟨0x43, [.rat 0]⟩) = .instr (.setGain (some 0)) := rfl
theorem test_decode_reserved : decode (.cmd ⟨0x30, []⟩) = .reserved := rfl
theorem test_decode_operands : decode (.cmd ⟨0x45, []⟩) = .malformed := rfl
/-- R101: 0 or 1 on the command port. -/
theorem test_decode_flag : decode (.cmd ⟨0x27, [.int 1]⟩) = .instr (.tunerCalibrateFilter true)
    ∧ decode (.cmd ⟨0x27, [.int 2]⟩) = .malformed := ⟨rfl, rfl⟩

/-! ### The text form (R61) -/

theorem test_text_program :
    readProgram "setCenterFrequency 1_090_000_000  # 0x42\n\nreadSamples 2" =
      some [⟨0x42, [.int 1090000000]⟩, ⟨0x45, [.int 2]⟩] := by decide
theorem test_text_batch :
    readProgram "writeEach [Reg(USB, 0x2148, 0x0210, 2), I2CReg(0x34, 5, 6)]" =
      some [⟨0x0C, [.records [⟨0x00, [1, 0x2148, 0x0210, 2]⟩, ⟨0x03, [0x34, 5, 6]⟩]]⟩] := by decide
theorem test_text_bytes :
    readProgram "writeI2CRegBuffer 0x34 0x15 [0x71, 0x1C]" =
      some [⟨0x0B, [.int 0x34, .int 0x15, .bytes [0x71, 0x1C]]⟩] := by decide
theorem test_text_gain : readProgram "setGain 7.5\nsetGain 15/2\nsetGain none" =
    some [⟨0x43, [.rat (15 / 2)]⟩, ⟨0x43, [.rat (15 / 2)]⟩, ⟨0x43, [.absent]⟩] := by decide +kernel
theorem test_text_unknown : readProgram "halt" = none := by decide

/-! ### States and transports -/

/-- The configuration of the tests: the specification's, with the test port open. -/
def cfg : Config := { Config.fixture with testPort := true }

/-- The shadow bank at the end of program P1 (95 section 4). -/
def bank : List Byte :=
  [0x83, 0x32, 0x75, 0xC0, 0x40, 0xD0, 0x6C, 0x6B, 0x63, 0x75, 0x68, 0x8C, 0x83, 0x80, 0x31, 0x84, 0x71, 0x1C, 0x30,
   0x48, 0xCC, 0x68, 0x00, 0x54, 0x86, 0x4A, 0xC0]

/-- The end state of P1 with the repeater open again, and the stream ready. -/
def bench : State :=
  { State.construct cfg 0 none with
    session := .opened
    claimed := true
    i2cOpen := true
    tunerPresent := true
    shadow := Vector.ofFn fun i => some (bank.getD i 0)
    hasLock := true
    pllState := .locked
    xtalFreq := some 28800000
    streamReady := true }

/-- A block just constructed, with the test port open. -/
def fresh : State := State.construct cfg 0 none

/-- A batch waiting for its last record. -/
def batch : State := { bench with frames := [.writeEachNext []] }

/-- `bench` at a crystal 50000 ppm low. -/
def slowBench : State := { bench with ppm := -50000, xtalFreq := some 27360000 }

/-- The nominal transport of 95 section 2. -/
def nominal : Transport := fun _ p =>
  match p with
  | .ctrlOut _ _ _ | .claim _ | .release _ => .ok []
  | .ctrlIn v i n =>
    if n = 1 then .ok [if v = 0x0120 ∧ i = 0x000A then 0x00 else 0x69]
    else if n = 5 then .ok [0, 0, 0, 0, 0x40]
    else if n = 3 then .ok [0, 0, 0x20]
    else .ok (List.replicate n 0)
  | .bulkIn _ n => .ok ((List.range n).map fun k => BitVec.ofNat 8 (0x80 + k))

/-- The nominal transport, but that the lock read at primitive `clear` is clear, and the calibration status ends in
`status`. -/
def tuned (clear : Nat) (status : Byte) : Transport := fun k p =>
  match p with
  | .ctrlIn _ _ n =>
    if n = 3 then .ok [0, 0, if k = clear then 0 else 0x20]
    else if n = 5 then .ok [0, 0, 0, 0, status]
    else nominal k p
  | .ctrlOut _ _ _ | .claim _ | .release _ | .bulkIn _ _ => nominal k p

/-- The nominal transport, but that no PLL locks and no tuner answers. -/
def silent : Transport := fun _ p =>
  match p with
  | .ctrlOut _ _ _ | .claim _ | .release _ => .ok []
  | .ctrlIn _ _ n | .bulkIn _ n => .ok (List.replicate n 0)

/-- The last primitive on record and the frames in progress after the first step of an instruction. -/
def begun (i : Instr) (s : State) (as : List Answer) : Option (Option Primitive × Nat) :=
  match exec i { s with answers := as } with
  | .next t => some (t.trace.getLast?, t.frames.length)
  | .fault _ | .refused _ => none

/-- The state after the first step of an instruction. -/
def after (i : Instr) (s : State) (as : List Answer) : Option State :=
  match exec i { s with answers := as } with
  | .next t => some t
  | .fault _ | .refused _ => none

/-- The fault an instruction stops in at once. -/
def stopped (i : Instr) (s : State) : Option Fault :=
  match exec i s with
  | .fault f => some f
  | .next _ | .refused _ => none

/-! ### Single steps -/

/-- 95 3.2. -/
theorem test_step_writeReg :
    begun (.writeReg 1 0x2148 0x0210 2) bench [.ok []] = some (some (.ctrlOut 0x2148 0x0110 [0x10, 0x02]), 1) := by
  decide +kernel
/-- 95 3.2. -/
theorem test_step_readReg :
    begun (.readReg 2 0x3000 2) bench [.ok [0x34, 0x12]] = some (some (.ctrlIn 0x3000 0x0200 2), 1) := by
  decide +kernel
/-- 95 3.2, R63. -/
theorem test_step_readReg_short :
    (after (.readReg 2 0x3000 2) bench [.ok [0x34]]).map State.responses =
      some [.err (.usbTransferFailed .dirIn 0x3000 0x0200 .shortTransfer)] := by
  decide +kernel
/-- 95 3.2, R34. -/
theorem test_step_writeReg_width :
    (after (.writeReg 0 0x10 0 3) bench []).map State.responses = some [.err .unsupportedRegisterWidth] := by
  decide +kernel
/-- 95 3.2. -/
theorem test_step_writeRegMask :
    begun (.writeRegMask 2 0x3000 0x08 0x08) bench [.ok [0xE0]] = some (some (.ctrlIn 0x3000 0x0200 1), 2) := by
  decide +kernel
/-- 95 3.2. -/
theorem test_step_writeDemodReg :
    begun (.writeDemodReg 1 0x9F 0x0399 2) bench [.ok []] = some (some (.ctrlOut 0x9F20 0x0011 [0x03, 0x99]), 1) := by
  decide +kernel
/-- 95 3.2, R31. -/
theorem test_step_writeDemodReg_page :
    stopped (.writeDemodReg 16 0x01 0 1) bench = some .invalidPage := by
  decide +kernel
/-- 95 3.2. -/
theorem test_step_readDemodReg :
    begun (.readDemodReg 0x0A 0x01) bench [.ok [5]] = some (some (.ctrlIn 0x0120 0x000A 1), 1) := by
  decide +kernel
/-- 95 3.2. -/
theorem test_step_openI2C :
    begun .openI2C fresh [.ok []] = some (some (.ctrlOut 0x0120 0x0011 [0x18]), 2) := by
  decide +kernel
/-- 95 3.2. -/
theorem test_step_closeI2C :
    begun .closeI2C bench [.ok []] = some (some (.ctrlOut 0x0120 0x0011 [0x10]), 2) := by
  decide +kernel
/-- 95 3.2. -/
theorem test_step_readI2CReg :
    begun (.readI2CReg 0x34 0x00) bench [.ok []] = some (some (.ctrlOut 0x0034 0x0610 [0x00]), 1) := by
  decide +kernel
/-- 95 3.2; R58, R135: the range of an operand comes before the repeater. -/
theorem test_step_readI2CReg_closed : stopped (.readI2CReg 0x34 0x00) fresh = some .i2cNotOpen
    ∧ stopped (.readI2CReg 0x100 0x00) fresh = some .valueOutOfRange := by
  decide +kernel
/-- 95 3.2. -/
theorem test_step_writeI2CReg :
    begun (.writeI2CReg 0x34 0x10 0xA0) bench [.ok []] = some (some (.ctrlOut 0x0034 0x0610 [0x10]), 1) := by
  decide +kernel
/-- 95 3.2, R32. -/
theorem test_step_writeI2CReg_combined :
    begun (.writeI2CReg 0x34 0x10 0xA0) { bench with cfg := { cfg with i2cWriteForm := .combined } } [.ok []] =
      some (some (.ctrlOut 0x0034 0x0610 [0x10, 0xA0]), 1) := by
  decide +kernel
/-- R73. -/
theorem test_step_readI2CRegBuffer :
    begun (.readI2CRegBuffer 0x34 0x00 5) bench [.ok []] = some (some (.ctrlOut 0x0034 0x0610 [0x00]), 1) := by
  decide +kernel
/-- 95 3.2. -/
theorem test_step_readI2CRegBuffer_zero :
    stopped (.readI2CRegBuffer 0x34 0x00 0) bench = some .invalidLength := by
  decide +kernel
/-- 95 3.2. -/
theorem test_step_writeI2CRegBuffer :
    begun (.writeI2CRegBuffer 0x34 0x15 [0x71, 0x1C]) bench [.ok []] =
      some (some (.ctrlOut 0x0034 0x0610 [0x15]), 1) := by
  decide +kernel
/-- 95 3.2. -/
theorem test_step_writeEach_empty :
    (after (.writeEach []) bench []).map State.responses = some [.ok .unit] := by
  decide +kernel
/-- R52, R75; a legal tag with a field missing is out of range when it is reached. -/
theorem test_step_writeEach_tag :
    (after (.writeEach [.unknown 0x04 []]) bench []).map State.responses = some [.err .unsupportedOperation]
    ∧ stopped (.writeEach [.unknown 0x03 [0x34, 5]]) bench = some .valueOutOfRange := by
  decide +kernel
/-- 95 3.2. -/
theorem test_step_claimInterface :
    begun .claimInterface fresh [.ok []] = some (some (.claim 0), 1) := by
  decide +kernel
/-- 95 3.2, R128. -/
theorem test_step_claimInterface_fails :
    (after .claimInterface fresh [.fail 7]).map State.responses =
      some [.err (.usbTransferFailed .dirClaim 0 0 (.transport 7))] := by
  decide +kernel
/-- R77. -/
theorem test_step_releaseInterface :
    begun .releaseInterface bench [.ok []] = some (some (.release 0), 1) := by
  decide +kernel
/-- 95 3.2, R63; R23: the failure clears `streamReady`. -/
theorem test_step_readBulk :
    (after (.readBulk 4) { bench with streamReady := true } [.ok [1, 2, 3]]).map
      (fun t => (t.responses, t.streamReady)) = some ([.err (.usbBulkReadFailed 4 .shortTransfer)], false) := by
  decide +kernel
/-- 95 3.2. -/
theorem test_step_readBulk_unclaimed : stopped (.readBulk 4) fresh = some .interfaceNotClaimed := by decide +kernel
/-- R80. -/
theorem test_step_tunerCheck :
    begun .tunerCheck bench [.ok []] = some (some (.ctrlOut 0x0034 0x0610 [0x00]), 2) := by
  decide +kernel
/-- 95 3.9, R138. -/
theorem test_step_tunerCheck_port : stopped .tunerCheck State.reset = some .notPermitted := by decide +kernel
/-- 95 3.4. -/
theorem test_step_tunerInit :
    begun .tunerInit bench [.ok []] = some (some (.ctrlOut 0x0034 0x0610 [0x05]), 2) := by
  decide +kernel
/-- 95 P1 item 8. -/
theorem test_step_tunerInitElectronics :
    begun .tunerInitElectronics bench [.ok []] = some (some (.ctrlOut 0x0034 0x0610 [0x0C]), 4) := by
  decide +kernel
/-- 95 P2 item 2. -/
theorem test_step_tunerSetFrequency :
    begun (.tunerSetFrequency 1093570000) bench [.ok []] = some (some (.ctrlOut 0x0034 0x0610 [0x17]), 4) := by
  decide +kernel
/-- 95 3.5: the first masked write, of 0x00 under 0x08 into 0x38. -/
theorem test_step_tunerSetMux :
    (after (.tunerSetMux 588000000) { bench with shadow := bench.shadow.set 18 (some 0x38) } [.ok []]).map
      (fun t => t.shadow[18]) = some (some 0x30) := by
  decide +kernel
/-- 95 3.5. -/
theorem test_step_tunerSetMux_negative :
    stopped (.tunerSetMux (-1)) bench = some .frequencyOutOfRange := by
  decide +kernel
/-- 95 3.6. -/
theorem test_step_tunerSetPll :
    begun (.tunerSetPll 56000000) bench [.ok []] = some (some (.ctrlOut 0x0034 0x0610 [0x00]), 3) := by
  decide +kernel
/-- 95 3.6. -/
theorem test_step_tunerSetPll_zero : stopped (.tunerSetPll 0) bench = some .frequencyOutOfRange := by decide +kernel
/-- R101, R102. -/
theorem test_step_tunerGetPllLock :
    (after (.tunerGetPllLock false) bench [.ok []]).map State.pllState = some .attempt2 := by
  decide +kernel
/-- 95 P1 item 9. -/
theorem test_step_tunerCalibrateFilter :
    begun (.tunerCalibrateFilter true) bench [.ok []] = some (some (.ctrlOut 0x0034 0x0610 [0x0B]), 4) := by
  decide +kernel
/-- 95 3.8: shadow 0x05 goes from 0x93 to 0x83. -/
theorem test_step_tunerSetAutoGain :
    (after .tunerSetAutoGain { bench with shadow := bench.shadow.set 0 (some 0x93) } [.ok []]).map
      (fun t => t.shadow[0]) = some (some 0x83) := by
  decide +kernel
/-- 95 3.8: shadow 0x05 goes from 0x83 to 0x93. -/
theorem test_step_tunerSetManualGain :
    (after (.tunerSetManualGain (15 / 2)) bench [.ok []]).map (fun t => t.shadow[0]) = some (some 0x93) := by
  decide +kernel
/-- 95 3.3. -/
theorem test_step_tunerReadRegBuffer :
    begun (.tunerReadRegBuffer 0x00 3) bench [.ok []] = some (some (.ctrlOut 0x0034 0x0610 [0x00]), 2) := by
  decide +kernel
/-- 95 3.3. -/
theorem test_step_tunerReadRegBuffer_end :
    stopped (.tunerReadRegBuffer 0x1E 3) bench = some .valueOutOfRange := by
  decide +kernel
/-- 95 3.4: 0x8C under 0xE0 with 0x20 is 0x2C. -/
theorem test_step_tunerWriteRegMask :
    (after (.tunerWriteRegMask 0x10 0x20 0xE0) bench [.ok []]).map (fun t => (t.shadow[11], t.trace)) =
      some (some 0x2C, [.ctrlOut 0x0034 0x0610 [0x10]]) := by
  decide +kernel
/-- 95 3.4: the cell keeps the new byte. -/
theorem test_step_tunerWriteRegMask_fails :
    (after (.tunerWriteRegMask 0x10 0x20 0xE0) bench [.fail 1]).map (fun t => (t.shadow[11], t.session)) =
      some (some 0x2C, .failed) := by
  decide +kernel
/-- 95 3.4. -/
theorem test_step_tunerClose :
    (after .tunerClose bench [.ok []]).map (fun t => (t.shadow[1], t.trace)) =
      some (some 0xB1, [.ctrlOut 0x0034 0x0610 [0x06]]) := by
  decide +kernel
/-- 95 P1 item 1. -/
theorem test_step_controllerOpen :
    begun .controllerOpen State.reset [.ok []] = some (some (.ctrlOut 0x2000 0x0110 [0x09]), 3) := by
  decide +kernel
/-- 95 3.9. -/
theorem test_step_controllerOpen_twice : stopped .controllerOpen bench = some .wrongSessionState := by decide +kernel
/-- 95 3.9. -/
theorem test_step_setSampleRate :
    begun (.setSampleRate 2000000) bench [.ok []] = some (some (.ctrlOut 0x9F20 0x0011 [0x03, 0x99]), 3) := by
  decide +kernel
/-- 95 3.9. -/
theorem test_step_setSampleRate_wrap :
    stopped (.setSampleRate 450000) bench = some .invalidSampleRate := by
  decide +kernel
/-- 95 P2 item 2. -/
theorem test_step_setCenterFrequency :
    begun (.setCenterFrequency 1090000000) bench [.ok []] = some (some (.ctrlOut 0x0120 0x0011 [0x18]), 3) := by
  decide +kernel
/-- 95 3.9. -/
theorem test_step_setCenterFrequency_high :
    stopped (.setCenterFrequency 1766430001) bench = some .frequencyOutOfRange := by
  decide +kernel
/-- 95 3.8. -/
theorem test_step_setGain :
    begun (.setGain (some 0)) bench [.ok []] = some (some (.ctrlOut 0x0120 0x0011 [0x18]), 3) := by
  decide +kernel
/-- 95 P2 item 3. -/
theorem test_step_resetBuffer :
    begun .resetBuffer bench [.ok []] = some (some (.ctrlOut 0x2148 0x0110 [0x10, 0x02]), 3) := by
  decide +kernel
/-- 95 P2 item 4. -/
theorem test_step_readSamples :
    begun (.readSamples 2) bench [.ok [0x80, 0x81, 0x82, 0x83]] = some (some (.bulkIn 1 4), 2) := by
  decide +kernel
/-- 95 3.9. -/
theorem test_step_readSamples_fails :
    (after (.readSamples 4) bench [.fail 9]).map (fun t => (t.responses, t.session, t.streamReady)) =
      some ([.err (.usbBulkReadFailed 8 (.transport 9))], .opened, false) := by
  decide +kernel
/-- 95 P4 item 5. -/
theorem test_step_controllerClose :
    begun .controllerClose bench [.ok []] = some (some (.ctrlOut 0x0120 0x0011 [0x18]), 3) := by
  decide +kernel
/-- R75. -/
theorem test_step_wcReg :
    begun (.wcReg 1 0x2148 0x0210 2) batch [.ok []] = some (some (.ctrlOut 0x2148 0x0110 [0x10, 0x02]), 2) := by
  decide +kernel
/-- R75. -/
theorem test_step_wcRegMask :
    begun (.wcRegMask 2 0x3000 0x08 0x08) batch [.ok [0xE0]] = some (some (.ctrlIn 0x3000 0x0200 1), 3) := by
  decide +kernel
/-- R75. -/
theorem test_step_wcDemodReg :
    begun (.wcDemodReg 1 1 0x18 1) batch [.ok []] = some (some (.ctrlOut 0x0120 0x0011 [0x18]), 2) := by
  decide +kernel
/-- R75. -/
theorem test_step_wcI2CReg :
    begun (.wcI2CReg 0x34 0x10 0xA0) batch [.ok []] = some (some (.ctrlOut 0x0034 0x0610 [0x10]), 2) := by
  decide +kernel

/-! ### Formulas -/

/-- 95 3.1. -/
theorem test_encode : encodeValue 0x0210 2 .little = .ok [0x10, 0x02] ∧ encodeValue 0x0399 2 .big = .ok [0x03, 0x99]
    ∧ encodeValue 0xFFFFFFFF 4 .little = .ok [0xFF, 0xFF, 0xFF, 0xFF] := ⟨rfl, rfl, rfl⟩
/-- 95 3.3. -/
theorem test_bitrev : bitrev .inPlace 0x12 = 0x84 ∧ bitrev .fullByte 0x12 = 0x48 ∧ bitrev .inPlace 0x20 = 0x40 := by decide
/-- 95 3.5. -/
theorem test_mux : muxIndex cfg.muxTable (49999999 / 1000000) = some 0 ∧ muxIndex cfg.muxTable 50 = some 1
    ∧ muxIndex cfg.muxTable 588 = some 2 := by decide +kernel
/-- 95 3.6, 56 MHz. -/
theorem test_pll_calibration : nintOf 56000000 28800000 = 31 ∧ packNint 31 = 0x84 ∧ sdmOf 56000000 28800000 = 7281
    ∧ achievedOf 56000000 28800000 = 57343978125 / 1024 := by decide +kernel
/-- 95 3.6, 1093.57 MHz. -/
theorem test_pll_center : nintOf 1093570000 28800000 = 37 ∧ packNint 37 = 0x06 ∧ sdmOf 1093570000 28800000 = 63647 := by
  decide +kernel
/-- 95 3.6, FAST at d0 = 0 and SLOW at d0 = 6 write the same field. -/
theorem test_pll_divider : dividerByte cfg 0 [0, 0, 0, 0, 0x30] = 0xE0 ∧ dividerByte cfg 6 [0, 0, 0, 0, 0x00] = 0xE0 := by
  decide +kernel
/-- 95 3.7. -/
theorem test_calibration_code : calibrationCode [0, 0, 0, 0, 0x0F] = 0 ∧ calibrationCode [0, 0, 0, 0, 0xF0] = 0
    ∧ calibrationCode [0, 0, 0, 0, 0x03] = 3 := by decide
/-- 95 3.8. -/
theorem test_gain : gainStep cfg (15 / 2) = 8 ∧ gainStep cfg (1 / 2) = 1 ∧ gainStep cfg 31 = 30 ∧ gainStep cfg (-5) = 0
    ∧ lnaStep 8 = 4 ∧ mixStep 8 = 3 ∧ mixStep 0 = -1 := by decide +kernel
/-- 95 3.9. -/
theorem test_rate : sampleRatio 2000000 = 0x3999998 ∧ sampleRatio 450001 = 0xFFFFDA8 ∧ sampleRatio 400000 = 0x2000000
    ∧ achievedRate 0x3000000 = 2400000 := by decide +kernel
/-- 95 3.9. -/
theorem test_crystal : correctedCrystal 50 = 28801440 ∧ ifMultiplier 28800000 = -519918
    ∧ evalFormula (-50000) cfg.ppmOffset = 838860 := by decide +kernel
/-- 95 P1 and P4. -/
theorem test_status : statusWord bench = 29 ∧ statusWord { bench with session := .closed } = 30 := by decide +kernel


/-! ### Witnesses: states and operands that meet the hypotheses of each statement -/

theorem bench_ready : Ready bench := ⟨by decide +kernel, rfl, rfl⟩
theorem fresh_ready : Ready fresh := ⟨by decide +kernel, rfl, rfl⟩
theorem bench_internal : ReadyInternal bench := ⟨bench_ready, rfl, rfl⟩
theorem fresh_internal : ReadyInternal fresh := ⟨fresh_ready, rfl, rfl⟩
theorem bench_external : ReadyExternal .opened bench := ⟨bench_ready, rfl⟩
theorem reset_external : ReadyExternal .idle State.reset := ⟨⟨by decide +kernel, rfl, rfl⟩, rfl⟩
theorem batch_record : ReadyRecord batch := ⟨by decide +kernel, rfl, rfl⟩
theorem bench_tuner : TunerReady bench := ⟨⟨rfl, rfl⟩, by unfold ShadowReady; decide +kernel⟩
theorem slow_internal : ReadyInternal slowBench := ⟨⟨by decide +kernel, rfl, rfl⟩, rfl, rfl⟩
theorem slow_tuner : TunerReady slowBench := ⟨⟨rfl, rfl⟩, by unfold ShadowReady; decide +kernel⟩

theorem nominal_faithful : Faithful nominal := by
  intro k p
  cases p with
  | ctrlIn v i n =>
    simp only [nominal]
    split
    · subst_vars; exact ⟨_, rfl⟩
    · split
      · subst_vars; exact ⟨_, rfl⟩
      · split
        · subst_vars; exact ⟨_, rfl⟩
        · exact ⟨.bytes (List.replicate n 0), by simp [primitiveResult]⟩
  | bulkIn ep n => exact ⟨.bytes ((List.range n).map fun k => BitVec.ofNat 8 (0x80 + k)), by simp [nominal, primitiveResult]⟩
  | _ => exact ⟨.unit, rfl⟩

theorem silent_faithful : Faithful silent := by
  intro k p
  cases p with
  | ctrlIn v i n => exact ⟨.bytes (List.replicate n 0), by simp [silent, primitiveResult]⟩
  | bulkIn ep n => exact ⟨.bytes (List.replicate n 0), by simp [silent, primitiveResult]⟩
  | _ => exact ⟨.unit, rfl⟩

theorem tuned_faithful (clear : Nat) (status : Byte) : Faithful (tuned clear status) := by
  intro k p
  cases p with
  | ctrlIn v i n =>
    simp only [tuned]
    split
    · subst_vars; exact ⟨_, rfl⟩
    · split
      · subst_vars; exact ⟨_, rfl⟩
      · exact nominal_faithful k _
  | _ => exact nominal_faithful k _

/-- The first lock read of the calibration of `bench`, where `calibrateFilter` is the command. -/
def firstLock : Nat := writeCount cfg * (cfg.calPre.length + cfg.setpllPre.length + 5) + 3

/-- The step goes on. -/
def goes (s : State) : Bool :=
  match step s with
  | .next _ => true
  | .fault _ | .refused _ => false

theorem goes_next {s : State} (h : goes s = true) : ∃ t, step s = .next t := by
  unfold goes at h
  split at h
  · exact ⟨_, by assumption⟩
  · cases h
  · cases h

/-- The direct run of an instruction completes. -/
def completes (O : Transport) (i : Instr) (s : State) : Bool :=
  match direct O i (Run.start s) with
  | .ok _ _ => true
  | .error _ _ | .fault _ _ => false

theorem completes_ok {O : Transport} {i : Instr} {s : State} (h : completes O i s = true) :
    ∃ v r, direct O i (Run.start s) = .ok v r := by
  unfold completes at h
  split at h
  · exact ⟨_, _, by assumption⟩
  · cases h
  · cases h

theorem witness_DecodeInvertsEncode : (Instr.writeReg 3 0xFFFF 0xFFFFFFFF 4).wellFormed = true
    ∧ (Instr.writeEach [.reg 0 0 0 1, .regMask 3 0xFFFF 255 255, .demodReg 15 255 0 2, .i2cReg 255 255 255,
        .unknown 0x04 [], .unknown 0x00 [0, 0, 1]]).wellFormed = true := by decide

theorem witness_EncodeInvertsDecode : decode (.cmd ⟨0x45, [.int 2]⟩) = .instr (.readSamples 2)
    ∧ decode (.cmd ⟨0x45, [.rat 2]⟩) = .instr (.readSamples 2) := ⟨rfl, by decide⟩

/-- The boundaries of the three ranges of reserved opcodes. -/
theorem witness_ReservedOpcodes : ∀ op ∈ ([0x00, 0x10, 0x1F, 0x2D, 0x3F, 0x47, 0xFF] : List Byte),
    Ready { bench with commands := [⟨op, []⟩] } ∧ decodeCmd ⟨op, []⟩ = .reserved := by
  intro op h
  refine ⟨⟨by exact bench_ready.1, rfl, rfl⟩, ?_⟩
  revert op; decide

theorem witness_StepRunsDecoded :
    (Ready bench ∧ decode (.cmd ⟨0x44, []⟩) = .instr .resetBuffer) ∧
    (configured batch = true ∧ batch.inflight = none ∧
      decode (.wc ⟨0x03, [0x34, 5, 6]⟩) = .instr (.wcI2CReg 0x34 5 6) ∧
      ({ batch with frames := [.writeEachNext [.i2cReg 0x34 5 6]] } : State).frames =
        .writeEachNext (decodeWC ⟨0x03, [0x34, 5, 6]⟩ :: []) :: []) ∧
    (batch.frames = .writeEachNext [] :: [] ∧ ∀ c cs, Frame.writeEachNext [] ≠ .writeEachNext (c :: cs)) ∧
    (Ready bench ∧ bench.commands = []) ∧
    (Ready { bench with commands := [⟨0x45, []⟩] } ∧ decode (.cmd ⟨0x45, []⟩) = .malformed ∧
      decode (.cmd ⟨0x40, [.absent]⟩) = .malformed ∧ decode (.cmd ⟨0x2C, [.int 0]⟩) = .malformed ∧
      decode (.cmd ⟨0x26, [.int 2]⟩) = .malformed) :=
  ⟨⟨bench_ready, rfl⟩, ⟨batch_record.1, rfl, rfl, rfl⟩, ⟨rfl, fun _ _ h => by cases h⟩, ⟨bench_ready, rfl⟩,
    ⟨bench_ready.1, rfl, rfl⟩, rfl, rfl, rfl, rfl⟩

/-- `bench` with `closeI2C` on its port and an answer to its first transfer. -/
def closing : State := { bench with commands := [⟨0x07, []⟩], answers := [.ok []] }

theorem witness_StepKeepsInvariant : closing.inv = true ∧ ∃ t, step closing = .next t :=
  ⟨by decide +kernel, goes_next (by decide +kernel)⟩

/-- The deepest stack, of 8 frames: a nudge during the calibration of `open`. -/
theorem witness_StackHoldsEightFrames :
    ({ fresh with
        frames := [.writeI2CRegDone, .tunerWriteRegMaskDone, .getPllLockNudged, .setPllLockDone 32 31 7281,
          .calibrateSynthDone true, .initElectronicsCalibrated, .tunerInitDone, .openInitDone]
        pllState := .attempt1
        i2cOpen := true
        tunerPresent := true
        xtalFreq := some 28800000 } : State).inv = true := by decide +kernel

theorem witness_SessionArcs : (closing.inv = true ∧ ∃ t, step closing = .next t) ∧
    ({ bench with session := .closed } : State).inv = true ∧ (∃ t, step { bench with session := .closed } = .next t) ∧
    ({ bench with session := .failed } : State).inv = true ∧ (∃ t, step { bench with session := .failed } = .next t) :=
  ⟨witness_StepKeepsInvariant, by decide +kernel, goes_next (by decide +kernel), by decide +kernel,
    goes_next (by decide +kernel)⟩

theorem witness_ConfigurationFixed : (∃ t, step closing = .next t)
    ∧ Config.wellFormed { closing.cfg with muxTable := [] } = false := ⟨goes_next (by decide +kernel), by decide +kernel⟩

theorem witness_OnePrimitivePerStep : closing.inflight = none ∧ ∃ t, step closing = .next t :=
  ⟨rfl, goes_next (by decide +kernel)⟩

theorem witness_ShadowStaysDefined : (∃ t, step closing = .next t) ∧ closing.shadow[(0 : Fin 27)].isSome = true
    ∧ closing.shadow[(26 : Fin 27)].isSome = true := ⟨goes_next (by decide +kernel), rfl, rfl⟩

/-- A tuner whose registers are the shadow bank of `bench`. -/
def mirror : Tuner := ⟨none, bench.shadow⟩

/-- The configuration with the write in one transfer. -/
def oneTransfer : Config := { cfg with i2cWriteForm := .combined }

/-- R38: register 0x1F reads as the byte last written, in either form of the write; one nothing has written, as the
transport answers. -/
theorem test_device_reads_back :
    (Tuner.lost.after cfg (i2cWritePrims cfg 0x34 0x1F [0xA5] ++ [i2cWrite cfg 0x34 [0x1E]])).reply cfg
      (i2cRead cfg 0x34 2) (.ok [7, 7]) = .ok [7, 0xA5] ∧
    (Tuner.lost.after oneTransfer (i2cWritePrims oneTransfer 0x34 0x05 [0xA5] ++ [i2cWrite oneTransfer 0x34 [0x04]])).reply
      oneTransfer (i2cRead oneTransfer 0x34 2) (.ok [7, 7]) = .ok [7, 0xA5] := by
  decide +kernel

theorem witness_ShadowMirrorsTuner :
    (Mirrors mirror bench ∧ ∃ v r, direct nominal (.tunerSetMux 0) (Run.start bench) = .ok v r) ∧
    (mirror.selected = none ∧ ∃ v r, direct nominal .tunerInit (Run.start bench) = .ok v r) ∧
    (allDemod (evalBatch State.reset.cfg.ifWrites (ifMultiplier (correctedCrystal State.reset.ppm))) = true ∧
      ∃ v r, direct nominal .controllerOpen (Run.start State.reset) = .ok v r) ∧
    configured bench = true ∧ configured State.reset = true ∧ Config.wellFormed cfg = true
      ∧ Config.wellFormed { cfg with softReset := [.i2cReg 0x34 5 6] } = false
      ∧ (ReadyInternal bench ∧ bench.i2cOpen = true ∧ shadowIndex (0x1E + (1 : Nat)) = some 26
        ∧ bench.shadow[(26 : Fin 27)] = some 0xC0
        ∧ mirror.Replies bench.cfg (i2cReadPrims bench.cfg 0x34 0x1E (2 : Int).toNat)
          [.ok [], .ok [(mirror.byteAt 0x1E).getD 0, 0xC0]]) :=
  ⟨⟨⟨rfl, rfl⟩, completes_ok (by decide +kernel)⟩, ⟨rfl, completes_ok (by decide +kernel)⟩,
    ⟨by decide +kernel, completes_ok (by decide +kernel)⟩, bench_ready.1, reset_external.1.1, by decide +kernel,
    by decide +kernel, bench_internal, rfl, rfl, rfl, by simp only [Tuner.Replies, i2cReadPrims]; decide +kernel⟩

theorem witness_MachineFollowsDirectStyle : Accepts .openI2C fresh ∧ Accepts .controllerOpen State.reset
    ∧ Accepts (.wcReg 1 0x2148 0 2) batch := ⟨fresh_internal, reset_external.1, batch_record⟩

/-- Opcodes 0x25 and 0x47 and tag 0x00 of the tables of R51 and R57, every operand zero. -/
theorem test_table_word : decodeTableWord 8 0x25 = some (.tunerSetPll 0) ∧ decodeTableWord 8 0x47 = none
    ∧ decodeTableWord 8 0x00 = some (.wcReg 0 0 0 0) := by decide

/-- A word placed where the step fetches runs as the first instruction after reset. -/
theorem test_fetch_word :
    step (State.reset.withFetchWord 8 0x0D) =
      exec .claimInterface { State.reset with cfg := { Config.fixture with testPort := true } } ∧
    step (State.reset.withFetchWord 8 0x40) = exec .controllerOpen State.reset ∧
    step (State.reset.withFetchWord 8 0x00) =
      exec (.wcReg 0 0 0 0) { State.reset with frames := [.writeEachNext []] } := by
  have h : configured (State.reset.withFetchWord 8 0x0D) = true := by decide +kernel
  have h' : configured (State.reset.withFetchWord 8 0x00) = true := by decide +kernel
  have h'' : configured (State.reset.withFetchWord 8 0x40) = true := by decide +kernel
  refine ⟨?_, ?_, ?_⟩
  · simp only [step, h, if_true]; rfl
  · simp only [step, h'', if_true]; rfl
  · simp only [step, h', if_true]; rfl

/-- The step of a command whose first transfer fails. -/
def failing (op : Byte) (os : List Operand) (s : State) : State := { s with commands := [⟨op, os⟩], answers := [.fail 7] }

/-- The step of `s` goes on, and issues `p`. -/
def issues (p : Primitive) (s : State) : Bool :=
  match step s with
  | .next t => t.trace == s.trace ++ [p]
  | .fault _ | .refused _ => false

/-- The transport fails `p`. -/
def failsAt (p : Primitive) (s : State) : Bool := issues p s && nextAnswer p (issue p s) == .fail 7

/-- A state whose next answer is one byte. -/
def answeringOne (s : State) : State := { s with answers := [.ok [0]] }

/-- One failure of each primitive, and one answer of the wrong length for each that reads. -/
theorem witness_FailedTransferEndsCommand :
    failsAt (.ctrlOut 0x0120 0x0011 [0x10]) (failing 0x07 [] bench) = true ∧
    failsAt (.ctrlIn 0x0120 0x000A 1) (failing 0x05 [.int 10, .int 1] bench) = true ∧
    failsAt (.bulkIn 1 4) (failing 0x45 [.int 2] bench) = true ∧
    failsAt (.claim 0) (failing 0x0D [] fresh) = true ∧ failsAt (.release 0) (failing 0x0E [] bench) = true ∧
    issues (.ctrlIn 0x2000 0x0100 4) (answeringOne (failing 0x02 [.int 1, .int 0x2000, .int 4] bench)) = true ∧
    issues (.bulkIn 1 4) (answeringOne (failing 0x45 [.int 2] bench)) = true := by
  decide +kernel

theorem witness_WriteRegCompletes : blockOf 3 = some .i2c ∧ inRange 0 0xFFFF 0xFFFF = true
    ∧ fitsWidth 0xFFFFFFFF 4 = true ∧ ReadyInternal bench ∧ ReadyRecord batch :=
  ⟨rfl, rfl, rfl, bench_internal, batch_record⟩

theorem witness_RegisterReadsComplete : ReadyInternal bench ∧ blockOf 2 = some .sys ∧ inRange 0 0xFFFF 0 = true
    ∧ isWidth 4 = true ∧ ([1, 2, 3, 4] : List Byte).length = (4 : Int).toNat ∧ inRange 0 15 15 = true
    ∧ isByte 255 = true := ⟨bench_internal, rfl, rfl, rfl, rfl, rfl, rfl⟩

theorem witness_WriteRegMaskCompletes : blockOf 2 = some .sys ∧ inRange 0 0xFFFF 0x3000 = true ∧ isByte 8 = true
    ∧ isByte 0xFF = true ∧ isByte 0xFE = true ∧ isByte 0 = true ∧ ReadyInternal bench ∧ ReadyRecord batch :=
  ⟨rfl, rfl, rfl, rfl, rfl, rfl, bench_internal, batch_record⟩

theorem witness_WriteDemodRegCompletes : inRange 0 15 15 = true ∧ isByte 255 = true ∧ fitsWidth 0xFFFF 2 = true
    ∧ ReadyInternal bench ∧ ReadyRecord batch := ⟨rfl, rfl, rfl, bench_internal, batch_record⟩

/-- The last step of `openI2C` and of `closeI2C`: the poll is answered. -/
def opening : State := { fresh with frames := [.openI2CDone] }

/-- The repeater's flag after one step. -/
def flagAfter (s : State) : Option Bool :=
  match step s with
  | .next t => some t.i2cOpen
  | .fault _ | .refused _ => none

theorem flagAfter_next {s : State} {b : Bool} (h : flagAfter s = some b) : ∃ t, step s = .next t ∧ t.i2cOpen = b := by
  unfold flagAfter at h
  split at h
  · cases h; exact ⟨_, by assumption, rfl⟩
  · cases h
  · cases h

theorem witness_RepeaterCommandsComplete : ReadyInternal fresh ∧ ReadyInternal bench
    ∧ (opening.inflight = none ∧ opening.i2cOpen = false ∧ ∃ t, step opening = .next t ∧ t.i2cOpen = true)
    ∧ (bench.inflight = none ∧ bench.i2cOpen = true
      ∧ ∃ t, step { bench with frames := [.closeI2CDone] } = .next t ∧ t.i2cOpen = false) :=
  ⟨fresh_internal, bench_internal, ⟨rfl, rfl, flagAfter_next (by decide +kernel)⟩, rfl, rfl,
    flagAfter_next (by decide +kernel)⟩

theorem witness_I2CReadsComplete : ReadyInternal bench ∧ bench.i2cOpen = true ∧ isByte 0x34 = true ∧ isByte 0 = true
    ∧ (1 : Int) ≤ 1 ∧ ([7] : List Byte).length = (1 : Int).toNat ∧ bench.tunerPresent = true
    ∧ (0x1F : Int) + 1 ≤ 0x20 := ⟨bench_internal, rfl, rfl, rfl, by decide, rfl, rfl, by decide⟩

theorem witness_I2CWritesComplete : bench.i2cOpen = true ∧ isByte 0x34 = true ∧ isByte 0 = true ∧ isByte 255 = true
    ∧ AllOk [.ok [], .ok []] ∧ ReadyInternal bench ∧ ReadyRecord batch
    ∧ ([.ok [], .ok []] : List Answer).length = (i2cWritePrims bench.cfg 0x34 0 [byteOf 255]).length
    ∧ ([.ok []] : List Answer).length =
        (i2cWritePrims { bench.cfg with i2cWriteForm := .combined } 0x34 0 [byteOf 255]).length :=
  ⟨rfl, rfl, rfl, rfl, by simp [AllOk], bench_internal, batch_record, rfl, rfl⟩

theorem witness_WriteEachCompletes : ReadyInternal bench ∧ Faithful nominal
    ∧ batchRuns bench.i2cOpen [.i2cReg 0x34 5 6, .reg 1 0 0 1] = true ∧ batchRuns false [] = true
    ∧ batchRuns false [.demodReg 1 1 0x18 1] = true ∧ 3 < (0x04 : Byte).toNat ∧ (0x03 : Byte).toNat ≤ 3 :=
  ⟨bench_internal, nominal_faithful, rfl, rfl, rfl, by decide, by decide⟩

theorem witness_InterfaceCommandsComplete : ReadyInternal bench ∧ bench.claimed = true ∧ (1 : Int) ≤ 1
    ∧ ([7] : List Byte).length = (1 : Int).toNat := ⟨bench_internal, rfl, by decide, rfl⟩

theorem witness_MaskedWriteCompletes : ReadyInternal bench ∧ TunerReachable bench
    ∧ shadowIndex 0x05 = some 0 ∧ shadowIndex 0x1F = some 26 ∧ bench.shadow[(26 : Fin 27)] = some 0xC0
    ∧ isByte 0 = true ∧ AllOk [.ok [], .ok []]
    ∧ ([.ok [], .ok []] : List Answer).length =
        (i2cWritePrims bench.cfg 0x34 0x1F [maskMerge 0xC0 (byteOf (-1)) (byteOf 0)]).length :=
  ⟨bench_internal, bench_tuner.1, rfl, rfl, rfl, rfl, by simp [AllOk], rfl⟩

/-- A calibration that locks at its first attempt, and one that locks at its second. -/
theorem witness_TunerInitCompletes : ReadyInternal bench ∧ TunerReady bench ∧ Faithful nominal
    ∧ NINT_BASE ≤ nintOf CAL_FREQ (crystal bench)
    ∧ (electronics nominal bench.cfg (crystal bench) (27 * writeCount bench.cfg)).locked = true
    ∧ (electronics nominal bench.cfg (crystal bench) 0).locked = true
    ∧ (let late := tuned (writeCount cfg * cfg.initElecPre.length + firstLock) 0x40
      Faithful late ∧ (electronics late bench.cfg (crystal bench) 0).locked = true
        ∧ electronics late bench.cfg (crystal bench) 0 ≠ electronics nominal bench.cfg (crystal bench) 0) :=
  ⟨bench_internal, bench_tuner, nominal_faithful, by decide +kernel, by decide +kernel, by decide +kernel,
    tuned_faithful _ _, by decide +kernel, by decide +kernel⟩

theorem witness_TunerListsComplete : ReadyInternal bench ∧ TunerReady bench ∧ Faithful nominal
    ∧ muxIndex bench.cfg.muxTable (((0 : Int) : Rat) / 1000000) = some 0
    ∧ bench.cfg.muxTable[0]? = some ⟨0, 0x08, 0x02, 0xDF, 0x02⟩ :=
  ⟨bench_internal, bench_tuner, nominal_faithful, by decide +kernel, rfl⟩

/-- Divisors 13 and 61 at the nominal crystal, and 63 and 64 at one 50000 ppm low. -/
theorem witness_SetPllCompletes : ReadyInternal bench ∧ TunerReady bench ∧ ReadyInternal slowBench ∧ TunerReady slowBench
    ∧ Faithful nominal ∧ Faithful silent
    ∧ (tunable 5850000 = true ∧ nintOf 5850000 (crystal bench) = 13)
    ∧ (tunable 1770000000 = true ∧ nintOf 1770000000 (crystal bench) = 61)
    ∧ (tunable 1730000000 = true ∧ nintOf 1730000000 (crystal slowBench) = 63)
    ∧ nintOf 1770000000 (crystal slowBench) = 64 :=
  ⟨bench_internal, bench_tuner, slow_internal, slow_tuner, nominal_faithful, silent_faithful, by decide +kernel,
    by decide +kernel, by decide +kernel, by decide +kernel⟩

theorem witness_SetPllRegisterBytes : (∀ n : Fin 27, bench.shadow[n].isSome = true)
    ∧ synthesizable 56000000 28800000 = true ∧ (0 : Rat) < 28800000
    ∧ shadowIndex cfg.nisiReg = some 15 ∧ shadowIndex cfg.sdmHiReg = some 17 ∧ shadowIndex cfg.sdmLoReg = some 16
    ∧ [cfg.nisiReg, cfg.sdmHiReg, cfg.sdmLoReg].Nodup
    ∧ ∀ r ∈ [cfg.nisiReg, cfg.sdmHiReg, cfg.sdmLoReg], r ≠ cfg.fracReg ∧ r ≠ cfg.vcoselReg ∧ r ≠ cfg.postlockReg :=
  ⟨bench_tuner.2, by decide +kernel, by decide +kernel, rfl, rfl, rfl, by decide +kernel, by decide +kernel⟩

theorem witness_SetFrequencyCompletes : ReadyInternal bench ∧ TunerReady bench ∧ Faithful nominal
    ∧ tunable 5850000 = true ∧ NINT_BASE ≤ nintOf 5850000 (crystal bench)
    ∧ ReadyInternal slowBench ∧ TunerReady slowBench ∧ NINT_MAX < nintOf 1770000000 (crystal slowBench) :=
  ⟨bench_internal, bench_tuner, nominal_faithful, by decide +kernel, by decide +kernel, slow_internal, slow_tuner,
    by decide +kernel⟩

theorem witness_GetPllLockCompletes : ReadyInternal bench ∧ TunerReady bench
    ∧ ([0, 0, 0x20] : List Byte).length = 3 ∧ AllOk [.ok [], .ok []]
    ∧ lockBitSet (([0, 0, 0x20] : List Byte).map (bitrev bench.cfg.bitrevMode)) = true
    ∧ lockBitSet (([0, 0, 0x00] : List Byte).map (bitrev bench.cfg.bitrevMode)) = false
    ∧ shadowIndex bench.cfg.vcoselReg = some 13 ∧ bench.shadow[(13 : Fin 27)] = some 0x80
    ∧ ([.ok [], .ok []] : List Answer).length = (i2cWritePrims bench.cfg 0x34 bench.cfg.vcoselReg
        [maskMerge 0x80 (byteOf bench.cfg.vcoselVal) (byteOf bench.cfg.vcoselMask)]).length :=
  ⟨bench_internal, bench_tuner, rfl, by simp [AllOk], rfl, rfl, rfl, rfl, rfl⟩

/-- One pass that locks at its first attempt, one that locks at its second, and two passes for a first code of 8. -/
theorem witness_CalibrateFilterCompletes : ReadyInternal bench ∧ TunerReady bench ∧ Faithful nominal
    ∧ (∀ c b, Faithful (tuned c b)) ∧ NINT_BASE ≤ nintOf CAL_FREQ (crystal bench)
    ∧ (let one := calibrationPass nominal bench.cfg (crystal bench) 0; one.locked = true ∧ one.code = 0)
    ∧ (let one := calibrationPass (tuned firstLock 0x40) bench.cfg (crystal bench) 0
      one.locked = true ∧ one.count = (calibrationPass nominal bench.cfg (crystal bench) 0).count + 4)
    ∧ (let one := calibrationPass (tuned 0 0x01) bench.cfg (crystal bench) 0
      one.locked = true ∧ one.code = 8
        ∧ (calibrationPass (tuned 0 0x01) bench.cfg (crystal bench) one.count).locked = true) :=
  ⟨bench_internal, bench_tuner, nominal_faithful, tuned_faithful, by decide +kernel, by decide +kernel,
    by decide +kernel, by decide +kernel⟩

theorem witness_OpenCompletes : ReadyExternal .idle State.reset ∧ Faithful nominal
    ∧ ChipReads nominal State.reset.cfg (chipIndex State.reset.cfg) 0x69 ∧ -513889 < State.reset.ppm
    ∧ batchRuns State.reset.i2cOpen State.reset.cfg.usbConfigBatch = true
    ∧ batchRuns State.reset.i2cOpen State.reset.cfg.demodInitBatch = true
    ∧ batchRuns true (evalBatch State.reset.cfg.ifWrites (ifMultiplier (correctedCrystal State.reset.ppm))) = true
    ∧ (electronics nominal State.reset.cfg (correctedCrystal State.reset.ppm)
        (electronicsIndex State.reset.cfg State.reset.ppm)).locked = true :=
  ⟨reset_external, nominal_faithful, by unfold ChipReads; decide +kernel, by decide, rfl, rfl, by decide +kernel,
    by decide +kernel⟩

/-- A transport on which the tuner answers its chip id and nothing after it. -/
def found : Transport := fun k p => if k = chipIndex State.reset.cfg then nominal k p else silent k p

theorem found_faithful : Faithful found := fun k p => by
  unfold found
  split
  · exact nominal_faithful k p
  · exact silent_faithful k p

/-- No tuner at all; a tuner whose PLL does not lock in `open`; and one whose PLL does not lock in each calibration. -/
theorem witness_BringUpErrors :
    (ReadyExternal .idle State.reset ∧ Faithful silent ∧ ChipReads silent State.reset.cfg (chipIndex State.reset.cfg) 0x00
      ∧ (0x00 : Byte) ≠ 0x69 ∧ batchRuns State.reset.i2cOpen State.reset.cfg.usbConfigBatch = true
      ∧ batchRuns State.reset.i2cOpen State.reset.cfg.demodInitBatch = true) ∧
    (Faithful found ∧ ChipReads found State.reset.cfg (chipIndex State.reset.cfg) 0x69 ∧ -513889 < State.reset.ppm
      ∧ batchRuns true (evalBatch State.reset.cfg.ifWrites (ifMultiplier (correctedCrystal State.reset.ppm))) = true
      ∧ (electronics found State.reset.cfg (correctedCrystal State.reset.ppm)
        (electronicsIndex State.reset.cfg State.reset.ppm)).locked = false) ∧
    (ReadyInternal bench ∧ TunerReady bench ∧ NINT_BASE ≤ nintOf CAL_FREQ (crystal bench)
      ∧ (calibration silent bench.cfg (crystal bench) true 0).locked = false
      ∧ (electronics silent bench.cfg (crystal bench) 0).locked = false
      ∧ (electronics silent bench.cfg (crystal bench) (27 * writeCount bench.cfg)).locked = false) := by
  exact ⟨⟨reset_external, silent_faithful, rfl, by decide, rfl, rfl⟩,
    ⟨found_faithful, by unfold ChipReads; decide +kernel, by decide, by decide +kernel, by decide +kernel⟩,
    bench_internal, bench_tuner, by decide +kernel, by decide +kernel, by decide +kernel, by decide +kernel⟩

theorem witness_SetSampleRateCompletes : ReadyExternal .opened bench ∧ Faithful nominal ∧ sampleRatio 450001 ≠ 0
    ∧ batchRuns bench.i2cOpen (evalBatch bench.cfg.srRatioWrites (sampleRatio 450001)) = true
    ∧ batchRuns bench.i2cOpen (evalBatch bench.cfg.ppmWrites (evalFormula bench.ppm bench.cfg.ppmOffset)) = true
    ∧ batchRuns bench.i2cOpen bench.cfg.softReset = true :=
  ⟨bench_external, nominal_faithful, by decide +kernel, by decide +kernel, by decide +kernel, rfl⟩

/-- The lowest target at the nominal crystal, 5850000 Hz, and the highest. -/
theorem witness_SetCenterFrequencyCompletes : ReadyExternal .opened bench ∧ bench.tunerPresent = true
    ∧ ShadowReady bench ∧ Faithful nominal
    ∧ NINT_BASE ≤ nintOf (2280000 + 3570000) (crystal bench) ∧ (1766430000 : Int) + 3570000 ≤ 1770000000
    ∧ NINT_BASE ≤ nintOf (1766430000 + 3570000) (crystal bench) :=
  ⟨bench_external, rfl, bench_tuner.2, nominal_faithful, by decide +kernel, by decide, by decide +kernel⟩

theorem witness_SetGainCompletes : ReadyExternal .opened bench ∧ bench.tunerPresent = true ∧ ShadowReady bench
    ∧ Faithful nominal := ⟨bench_external, rfl, bench_tuner.2, nominal_faithful⟩

theorem witness_StreamCommandsComplete : ReadyExternal .opened bench ∧ Faithful nominal
    ∧ batchRuns bench.i2cOpen bench.cfg.epaReset = true ∧ bench.streamReady = true ∧ bench.claimed = true
    ∧ ([1, 2] : List Byte).length = (2 * (1 : Int)).toNat := ⟨bench_external, nominal_faithful, rfl, rfl, rfl, rfl⟩

theorem witness_ReadSamplesFailure : ReadyExternal .opened bench ∧ bench.streamReady = true ∧ bench.claimed = true
    ∧ (∀ d, Answer.fail 7 = .ok d → d.length ≠ (2 * (1 : Int)).toNat)
    ∧ (∀ d, Answer.ok [1] = .ok d → d.length ≠ (2 * (1 : Int)).toNat) :=
  ⟨bench_external, rfl, rfl, (fun _ h => by cases h), (fun _ h => by cases h; decide)⟩

theorem witness_CloseCompletes : ReadyExternal .opened bench ∧ bench.tunerPresent = true ∧ ShadowReady bench
    ∧ Faithful nominal := ⟨bench_external, rfl, bench_tuner.2, nominal_faithful⟩

theorem witness_ExternalNeedsSession : bench.session ≠ .idle ∧ State.reset.session ≠ .opened := by decide

theorem witness_InternalNeedsTestPort : Instr.openI2C.isBatchRecord = false ∧ isExternal .openI2C = false
    ∧ State.reset.cfg.testPort = false ∧ ({ bench with session := .closed } : State).session = .closed
    ∧ ({ bench with session := .failed } : State).session = .failed := ⟨rfl, rfl, rfl, rfl, rfl⟩

/-- A value at each end of each range that a clause excludes. -/
theorem witness_BusCommandStops : ReadyInternal bench ∧ ReadyInternal fresh
    ∧ isBlockCode (-1) = false ∧ isBlockCode 4 = false ∧ inRange 0 0xFFFF (-1) = false ∧ inRange 0 0xFFFF 0x10000 = false
    ∧ isBlockCode 0 = true ∧ isBlockCode 3 = true ∧ isWidth 1 = true ∧ fitsWidth 256 1 = false ∧ fitsWidth (-1) 1 = false
    ∧ isWidth 4 = true ∧ fitsWidth 0x100000000 4 = false ∧ isByte 0 = true ∧ isByte 255 = true
    ∧ isByte (-1) = false ∧ isByte 256 = false ∧ inRange 0 15 (-1) = false ∧ inRange 0 15 16 = false
    ∧ inRange 0 15 0 = true ∧ inRange 0 15 15 = true
    ∧ fresh.i2cOpen = false ∧ bench.i2cOpen = true ∧ (0 : Int) < 1 ∧ fresh.claimed = false
    ∧ isWidth 0 = false ∧ isWidth 3 = false ∧ isWidth 5 = false :=
  ⟨bench_internal, fresh_internal, by decide⟩

/-- `bench` with the repeater closed. -/
def closedBench : State := { bench with i2cOpen := false }

/-- A value at each end of each range that a clause excludes, and the divisor 12. -/
theorem witness_TunerCommandFaults : (ReadyInternal fresh ∧ fresh.tunerPresent = false)
    ∧ (ReadyInternal bench ∧ bench.tunerPresent = true ∧ ReadyInternal { bench with shadow := fresh.shadow })
    ∧ (ReadyInternal closedBench ∧ closedBench.tunerPresent = true ∧ closedBench.i2cOpen = false ∧ ShadowReady closedBench
      ∧ (0x1F : Int) + 1 ≤ 0x20 ∧ (0 : Int) + 0x20 ≤ 0x20 ∧ tunable 1 = true ∧ tunable 1770000000 = true
      ∧ closedBench.cfg.autoGainWrites ≠ [])
    ∧ (inRange 0x05 0x1F 0x04 = false ∧ inRange 0x05 0x1F 0x20 = false ∧ isByte (-1) = false ∧ isByte 256 = false
      ∧ shadowIndex 0x05 = some 0 ∧ fresh.shadow[(0 : Fin 27)] = none ∧ bench.shadow[(0 : Fin 27)].isSome = true
      ∧ inRange 0 0x1F (-1) = false ∧ inRange 0 0x1F 0x20 = false ∧ (0x20 : Int) < 0x1F + 2)
    ∧ (TunerReady bench ∧ Faithful nominal ∧ tunable 5849999 = true ∧ nintOf 5849999 (crystal bench) < 13)
    ∧ (ReadyExternal .opened bench ∧ (0 : Int) < 2279999 + 3570000 ∧ (2279999 : Int) + 3570000 ≤ 1770000000
      ∧ nintOf (2279999 + 3570000) (crystal bench) < 13) :=
  ⟨⟨fresh_internal, rfl⟩, ⟨bench_internal, rfl, ⟨⟨by exact bench_ready.1, rfl, rfl⟩, rfl, rfl⟩⟩,
    ⟨⟨⟨by exact bench_ready.1, rfl, rfl⟩, rfl, rfl⟩, rfl, rfl, bench_tuner.2, by decide, by decide, by decide, by decide,
      by decide +kernel⟩,
    ⟨rfl, rfl, rfl, rfl, rfl, rfl, rfl, rfl, rfl, by decide⟩,
    ⟨bench_tuner, nominal_faithful, by decide +kernel, by decide +kernel⟩,
    bench_external, by decide, by decide, by decide +kernel⟩

theorem witness_ControllerCommandFaults : ReadyExternal .opened bench ∧ sampleRatio 450000 = 0
    ∧ (-3570000 : Int) + 3570000 ≤ 0 ∧ (1770000000 : Int) < 1766430001 + 3570000
    ∧ ReadyExternal .opened { bench with streamReady := false } :=
  ⟨bench_external, by decide +kernel, by decide, by decide, ⟨by exact bench_ready.1, rfl, rfl⟩, rfl⟩

theorem witness_ByteOrders : fitsWidth 255 1 = true ∧ fitsWidth 0xFFFF 2 = true ∧ fitsWidth 0xFFFFFFFF 4 = true
    ∧ ¬ ((3 : Int) = 1 ∨ (3 : Int) = 2 ∨ (3 : Int) = 4) ∧ ¬ (0 ≤ (256 : Int) ∧ (256 : Int) < 2 ^ (8 * (1 : Int).toNat)) := by
  decide

theorem witness_SetupStageFields : ([1, 2] : List Byte).length < 65536 ∧ 65535 < 65536 := by decide

theorem witness_FloorLog : (0 : Rat) < 1 / 3 ∧ (2 : Rat) ^ (-2 : Int) ≤ 1 / 3 ∧ (1 : Rat) / 3 < (2 : Rat) ^ (-2 + 1 : Int) := by
  refine ⟨by norm_num, by norm_num, by norm_num⟩

theorem witness_MuxIndexIsStep : okMuxTable cfg = true ∧ (0 : Rat) ≤ 0 ∧ (0 : Rat) ≤ 588 := by decide +kernel

/-- Both sides of each boundary of the divider exponent that a clause names. -/
theorem witness_DividerChoice : tunable 1 = true ∧ tunable 1770000000 = true ∧ dividerExponent 27656250 = 6
    ∧ dividerExponent 27656251 = 5 ∧ dividerExponent 1770000000 = 0 := by decide +kernel

theorem witness_PllParameters : (0 : Rat) < 28800000 ∧ pllNint 5850000 128 28800000 = 13
    ∧ pllNint 1730000000 2 27360000 = 63 := by decide +kernel

theorem witness_SynthesisError : (0 : Rat) < 28800000 ∧ tunable 1 = true ∧ tunable 1770000000 = true := by decide +kernel

theorem witness_SynthesisReach : tunable 5850000 = true ∧ (0 : Rat) < 27360000
    ∧ NINT_MAX < nintOf 1770000000 27360000 ∧ okPpm (-513888) = true ∧ okPpm (-513889) = true ∧ okPpm 999999 = true := by
  decide +kernel

/-- The value of the polynomial a gain selects, in the test configuration. -/
def selected (g : Rat) : Rat := Cubic.eval (if g ≤ 15 then cfg.gainPolyLo else cfg.gainPolyHi) g

/-- Gains at the boundaries of the clauses. -/
theorem witness_GainSplit : selected (-1 / 2) = -1 / 2 ∧ selected 30 < 61 / 2 ∧ selected (-1) < -1 / 2
    ∧ selected (61 / 2) = 61 / 2 := by decide +kernel

/-- Both sides of each boundary: the ratio is 0 at 450000 Hz, where bit 28 is lost, and just above XTAL * 2^20 Hz. -/
theorem witness_SampleRatio : (450000 : Int) < 450001 ∧ sampleRatio 450000 = 0 ∧ sampleRatio 450001 = 0x0FFFFDA8
    ∧ sampleRatio (28800000 * 1048576) = 4 ∧ sampleRatio (28800000 * 1048576 + 1) = 0 := by decide +kernel

theorem witness_CrystalFrequency : okPpm (-999999) = true ∧ okPpm 0 = true ∧ okPpm 999999 = true := by decide

/-- A completed run of each operation that a clause counts, of both lock attempts, of both ends of `setPll` and of both
numbers of passes. -/
theorem witness_TransferCounts : configured bench = true ∧ configured slowBench = true ∧
    (∀ i ∈ ([.writeReg 1 0 0 1, .readReg 1 0 1, .readDemodReg 1 0, .writeRegMask 1 0 0 255, .writeRegMask 1 0 0 1,
      .writeDemodReg 1 0 0 1, .openI2C, .closeI2C, .readI2CReg 0x34 0, .readI2CRegBuffer 0x34 0 1,
      .tunerReadRegBuffer 0 1, .tunerCheck, .writeI2CReg 0x34 0 0, .writeI2CRegBuffer 0x34 0 [1],
      .tunerWriteRegMask 5 0 0, .tunerSetMux 0, .tunerClose, .tunerGetPllLock true, .tunerSetPll 56000000,
      .readSamples 1, .wcReg 1 0 0 1, .wcRegMask 1 0 0 1, .wcDemodReg 1 0 0 1, .wcI2CReg 0x34 0 0, .tunerInit,
      .tunerInitElectronics, .tunerSetFrequency 56000000, .tunerCalibrateFilter false, .tunerCalibrateFilter true,
      .tunerSetAutoGain, .tunerSetManualGain 7, .setGain none, .setGain (some 7), .setCenterFrequency 56000000] :
      List Instr), completes nominal i bench = true) ∧
    (∀ i ∈ ([.tunerGetPllLock false, .tunerGetPllLock true, .tunerSetPll 56000000] : List Instr),
      completes silent i bench = true) ∧
    completes nominal (.tunerSetPll 1770000000) slowBench = true ∧
    completes (tuned firstLock 0x01) (.tunerCalibrateFilter true) bench = true := by
  refine ⟨bench_ready.1, slow_internal.1.1, by decide +kernel, by decide +kernel, by decide +kernel, by decide +kernel⟩

end Sys2Proof.Machine.Tests
end

section
/-! SUPPORT. The invariant of the block, as what every run of statements keeps (R16, R22, R24, R26); and the proofs that
every step keeps it and that it bounds the frame stack. -/

namespace Sys2Proof.Machine

/-! ### The height of an operation -/

/-- How many operations the longest chain of calls from an operation holds, the operation included (R16). -/
def OpKind.height : OpKind → Nat
  | .writeReg | .readReg | .readDemodReg | .readI2CReg | .writeI2CReg | .readI2CRegBuffer | .writeI2CRegBuffer
  | .claimInterface | .releaseInterface | .readBulk => 1
  | .writeRegMask | .writeDemodReg | .tunerCheck | .tunerReadRegBuffer | .tunerWriteRegMask | .readSamples => 2
  | .openI2C | .closeI2C | .writeEach | .tunerBatch | .tunerSetMux | .tunerClose | .tunerGetPllLock => 3
  | .tunerSetPll | .tunerSetAutoGain | .tunerSetManualGain | .setSampleRate | .resetBuffer | .controllerClose => 4
  | .tunerSetFrequency | .tunerCalibrateFilter | .setGainInner => 5
  | .tunerInitElectronics | .setCenterFrequency | .setGain => 6
  | .tunerInit => 7
  | .controllerOpen => 8

theorem OpKind.height_pos (k : OpKind) : 1 ≤ k.height := by cases k <;> decide

theorem OpKind.height_le (k : OpKind) : k.height ≤ 8 := by cases k <;> decide

/-- An operation calls only operations of a smaller height. -/
theorem height_of_awaits {f : Frame} {k : OpKind} (h : f.awaits k = true) : k.height < f.kind.height := by
  cases f with
  | writeEachNext cs =>
    simp only [Frame.awaits, Bool.or_eq_true, beq_iff_eq, or_assoc] at h
    rcases h with rfl | rfl | rfl | rfl <;> simp [Frame.kind, OpKind.height]
  | setGainInnerDone =>
    simp only [Frame.awaits, Bool.or_eq_true, beq_iff_eq] at h
    rcases h with rfl | rfl <;> decide
  | _ =>
    simp only [Frame.awaits, beq_iff_eq, Bool.false_eq_true] at h <;> subst h <;> simp [Frame.kind, OpKind.height]

theorem stackOk_cons_cons {f g : Frame} {fs : List Frame} :
    stackOk (f :: g :: fs) = true ↔ g.awaits f.kind = true ∧ stackOk (g :: fs) = true := by
  simp [stackOk]

theorem stackOk_tail {f : Frame} {fs : List Frame} (h : stackOk (f :: fs) = true) : stackOk fs = true := by
  cases fs with
  | nil => rfl
  | cons g gs => exact (stackOk_cons_cons.1 h).2

/-- The frames below one see no more of it than its operation. -/
theorem stackOk_of_kind_eq {f k : Frame} {fs : List Frame} (hk : k.kind = f.kind) (h : stackOk (f :: fs) = true) :
    stackOk (k :: fs) = true := by
  cases fs with
  | nil => rfl
  | cons g gs => rw [stackOk_cons_cons] at h ⊢; rwa [hk]

/-- Each call goes down at least one height, so the frames below an operation and its own height share the 8. -/
theorem length_add_height {f : Frame} {fs : List Frame} (h : stackOk (f :: fs) = true) :
    fs.length + f.kind.height ≤ 8 := by
  induction fs generalizing f with
  | nil => simpa using f.kind.height_le
  | cons g gs ih =>
    obtain ⟨hg, hs⟩ := stackOk_cons_cons.1 h
    have hlt := height_of_awaits hg
    have hle := ih hs
    simp only [List.length_cons]
    omega

theorem stackOk_length {fs : List Frame} (h : stackOk fs = true) : fs.length ≤ 8 := by
  cases fs with
  | nil => exact Nat.zero_le _
  | cons f fs =>
    have hle := length_add_height h
    have hpos := f.kind.height_pos
    simp only [List.length_cons]
    omega

/-! ### Where external commands and lock attempts stand -/

/-- No operation calls an external command. -/
theorem not_isController_of_awaits {g f : Frame} (h : g.awaits f.kind = true) : f.isController = false := by
  unfold Frame.isController
  generalize f.kind = k at h ⊢
  cases g with
  | writeEachNext cs =>
    simp only [Frame.awaits, Bool.or_eq_true, beq_iff_eq, or_assoc] at h
    rcases h with rfl | rfl | rfl | rfl <;> rfl
  | setGainInnerDone =>
    simp only [Frame.awaits, Bool.or_eq_true, beq_iff_eq] at h
    rcases h with rfl | rfl <;> rfl
  | _ =>
    simp only [Frame.awaits, beq_iff_eq, Bool.false_eq_true] at h <;> subst h <;> rfl

/-- A frame that has checked a session belongs to an external command. -/
theorem isController_of_checkedSession {f : Frame} {w : Session} (h : f.checkedSession = some w) :
    f.isController = true := by
  cases f <;> first | rfl | cases h

/-- A lock attempt is too high an operation to run within `readSamples`. -/
theorem not_isAttempt_of_inReadSamples {fs : List Frame} (hs : stackOk fs = true) (hr : inReadSamples fs = true) :
    ∀ f ∈ fs, f.isAttempt = false := by
  suffices hle : ∀ f ∈ fs, f.kind.height ≤ 2 by
    intro f hf
    have := hle f hf
    cases f <;> first | rfl | (simp [Frame.kind, OpKind.height] at this)
  induction fs with
  | nil => nofun
  | cons f fs ih =>
    cases fs with
    | nil =>
      simp only [inReadSamples, List.any_cons, List.any_nil, Bool.or_false, beq_iff_eq] at hr
      subst hr
      simp [Frame.kind, OpKind.height]
    | cons g gs =>
      obtain ⟨hg, hs'⟩ := stackOk_cons_cons.1 hs
      have hf : f ≠ .readSamplesData := by
        rintro rfl; exact absurd (not_isController_of_awaits hg) (by decide)
      have htail := ih hs' (by rwa [inReadSamples_cons hf] at hr)
      have hhead := height_of_awaits hg
      have hg2 := htail g List.mem_cons_self
      intro x hx
      rcases List.mem_cons.1 hx with rfl | hx
      · omega
      · exact htail x hx

/-! ### The invariant along runs of statements -/

/-- What holds of the state items and the frames at every position of a command (R22, R24, R26). -/
structure Sound (s : State) : Prop where
  stack : stackOk s.frames = true
  checked : ∀ f ∈ s.frames, ∀ w, f.checkedSession = some w → s.session = w
  lock : (∃ f ∈ s.frames, f.isAttempt = true) ∨ s.session = .failed ∨ lockConsistent s = true
  crystalSet : ∀ x, s.xtalFreq = some x → x = correctedCrystal s.ppm
  crystalUnset : s.xtalFreq = none → s.tunerPresent = false ∧ ∀ f ∈ s.frames, f.pastCrystal = false
  settled : s.inflight = none

/-- A command in progress is one the session accepts (R134, R138). -/
def Live (s : State) : Prop := s.frames = [] ∨ sessionLive s.session = true

/-- An external command stands at its first statement, its session check still to come (R112). -/
def AtCheck (s : State) : Prop := ∃ op, s.frames = [.enter op] ∧ (Frame.enter op).isController = true

theorem sessionChecked_iff (s : State) :
    sessionChecked s = true ↔ ∀ f ∈ s.frames, ∀ w, f.checkedSession = some w → s.session = w := by
  simp only [sessionChecked, List.all_eq_true]
  refine forall₂_congr fun f _ => ?_
  cases f.checkedSession <;> simp

theorem lockInv_iff (s : State) :
    lockInv s = true ↔ (∃ f ∈ s.frames, f.isAttempt = true) ∨ s.session = .failed ∨ lockConsistent s = true := by
  simp [lockInv, or_assoc]

theorem crystalInv_iff (s : State) : crystalInv s = true ↔ (∀ x, s.xtalFreq = some x → x = correctedCrystal s.ppm) ∧
    (s.xtalFreq = none → s.tunerPresent = false ∧ ∀ f ∈ s.frames, f.pastCrystal = false) := by
  unfold crystalInv
  cases s.xtalFreq <;> simp

theorem progressInv_iff (s : State) : progressInv s = true ↔ Live s ∧ s.inflight = none := by
  simp [progressInv, Live]

/-- The invariant between steps, in the terms of a run of statements. -/
theorem inv_iff (s : State) : s.inv = true ↔ Sound s ∧ Live s := by
  simp only [State.inv, Bool.and_eq_true, sessionChecked_iff, lockInv_iff, crystalInv_iff, progressInv_iff]
  constructor
  · rintro ⟨⟨⟨⟨hstack, hchecked⟩, hlock⟩, hset, hunset⟩, hlive, hsettled⟩
    exact ⟨⟨hstack, hchecked, hlock, hset, hunset, hsettled⟩, hlive⟩
  · rintro ⟨⟨hstack, hchecked, hlock, hset, hunset, hsettled⟩, hlive⟩
    exact ⟨⟨⟨⟨hstack, hchecked⟩, hlock⟩, hset, hunset⟩, hlive, hsettled⟩

theorem lockConsistent_congr {s t : State} (hl : t.hasLock = s.hasLock) (hp : t.pllState = s.pllState) :
    lockConsistent t = lockConsistent s := by
  unfold lockConsistent; rw [hl, hp]

/-- A state with an empty stack is sound where the lock and the crystal are. -/
theorem inv_of_no_frames {t : State} (hf : t.frames = []) (hi : t.inflight = none)
    (hl : t.session = .failed ∨ lockConsistent t = true)
    (hset : ∀ x, t.xtalFreq = some x → x = correctedCrystal t.ppm)
    (hunset : t.xtalFreq = none → t.tunerPresent = false) : t.inv = true :=
  (inv_iff t).2 ⟨⟨by rw [hf]; rfl, by simp [hf], .inr hl, hset, fun h => ⟨hunset h, by simp [hf]⟩, hi⟩, .inl hf⟩

/-- A primitive's answer, or the error it raises, leaves the invariant: an error ends the command with the session
FAILED, or within `readSamples`, where no lock attempt runs. -/
theorem transact_inv {p : Primitive} {s : State} (h : Sound s) (hl : sessionLive s.session = true) :
    (transact p s).inv = true := by
  rcases transact_cases p s with ⟨v, ht⟩ | ⟨e, ht⟩ <;> rw [ht]
  · exact (inv_iff _).2 ⟨⟨h.stack, h.checked, h.lock, h.crystalSet, h.crystalUnset, rfl⟩, .inr hl⟩
  · refine inv_of_no_frames rfl rfl ?_ h.crystalSet fun hx => (h.crystalUnset hx).1
    simp only [errorEntry_session]
    split
    · rename_i hr
      rw [Bool.and_eq_true] at hr
      have hno := not_isAttempt_of_inReadSamples h.stack hr.2
      refine h.lock.resolve_left ?_
      rintro ⟨f, hf, ha⟩
      rw [hno f hf] at ha; cases ha
    · exact .inl rfl

section Runs

variable {s t u : State} {f k : Frame} {fs : List Frame}

/-- The session accepts commands where the top frame is not an external command at its session check, or the check has
let it pass. -/
theorem sessionLive_of_frames (hf : s.frames = f :: fs) (hl : Live s ∨ AtCheck s)
    (hc : f.isController = true → sessionLive s.session = true ∨ ∃ w, f.checkedSession = some w) :
    sessionLive s.session = true := by
  rcases hl with (hnone | hlive) | ⟨op, hop, hctl⟩
  · rw [hf] at hnone; cases hnone
  · exact hlive
  · rw [hf] at hop
    cases hop
    exact (hc hctl).resolve_right nofun

/-- A frame that is no lock attempt comes off the stack and leaves the lock as it was. -/
theorem Sound.lock_pop (h : Sound s) (hf : s.frames = f :: fs) (hlive : sessionLive s.session = true)
    (ha : f.isAttempt = false) : (∃ g ∈ fs, g.isAttempt = true) ∨ lockConsistent s = true := by
  rcases h.lock with ⟨g, hg, hat⟩ | hfail | hcon
  · rw [hf] at hg
    rcases List.mem_cons.1 hg with rfl | hg
    · rw [ha] at hat; cases hat
    · exact .inl ⟨g, hg, hat⟩
  · rw [hfail] at hlive; cases hlive
  · exact .inr hcon

/-- `return v`: the frame below goes on, or the port answers. -/
theorem returnValue_inv {v : Value} (h : Sound s) (hf : s.frames = f :: fs) (hl : Live s ∨ AtCheck s)
    (hk : Kept { s with frames := fs } u) (hw : (Act.ret v u).Within f { s with frames := fs })
    (hm : returnValue v u = .more t ∨ returnValue v u = .done t) : t.inv = true := by
  obtain ⟨hsession, hxtal, htuner, hlock, hcheck⟩ := hw
  simp only at hsession hxtal htuner hlock
  have hlive := sessionLive_of_frames hf hl fun hc => .inr (hcheck hc)
  have hlock' : (∃ g ∈ fs, g.isAttempt = true) ∨ lockConsistent u = true := by
    rcases hlock with hcon | ⟨hhas, hpll, ha⟩
    · exact .inr hcon
    · rw [lockConsistent_congr hhas hpll]; exact h.lock_pop hf hlive ha
  have hset : ∀ x, u.xtalFreq = some x → x = correctedCrystal u.ppm := by rw [hxtal, hk.ppm]; exact h.crystalSet
  have hunset : u.xtalFreq = none → u.tunerPresent = false ∧ ∀ g ∈ fs, g.pastCrystal = false := by
    intro hx
    obtain ⟨hp, hq⟩ := h.crystalUnset (hxtal ▸ hx)
    exact ⟨htuner ▸ hp, fun g hg => hq g (hf ▸ List.mem_cons_of_mem f hg)⟩
  have hin : u.inflight = none := hk.inflight.trans h.settled
  have hstack : stackOk (f :: fs) = true := hf ▸ h.stack
  cases fs with
  | nil =>
    have hr : respond v u = t := by simpa [returnValue, hk.frames] using hm
    subst hr
    exact inv_of_no_frames rfl hin (.inr (hlock'.resolve_left (by simp))) hset fun hx => (hunset hx).1
  | cons g gs =>
    have hr : { u with latch := v } = t := by simpa [returnValue, hk.frames] using hm
    subst hr
    have hctl : f.isController = false := not_isController_of_awaits (stackOk_cons_cons.1 hstack).1
    have hno : ∀ w, f.checkedSession ≠ some w := fun w hfw => by
      rw [isController_of_checkedSession hfw] at hctl; cases hctl
    have hsame : u.session = s.session := by
      rcases hsession with hsame | ⟨hfw, _⟩ | ⟨hfw, _⟩
      · exact hsame
      · exact absurd hfw (hno _)
      · exact absurd hfw (hno _)
    refine (inv_iff _).2 ⟨⟨?_, ?_, ?_, hset, ?_, hin⟩, .inr (hsame ▸ hlive)⟩
    · simpa [hk.frames] using stackOk_tail hstack
    · intro x hx w hxw
      simp only [hk.frames] at hx
      exact hsame.trans (h.checked x (hf ▸ List.mem_cons_of_mem f hx) w hxw)
    · simp only [hk.frames]
      exact hlock'.imp_right .inr
    · simpa only [hk.frames] using hunset

/-- `call op(args)`: the operation called stands above the frame that waits for it. -/
theorem call_inv {op : Op} (h : Sound s) (hf : s.frames = f :: fs) (hl : Live s ∨ AtCheck s)
    (hk : Kept { s with frames := fs } u) (hw : (Act.call op k u).Within f { s with frames := fs }) :
    ({ u with frames := .enter op :: k :: u.frames, latch := .unit } : State).inv = true := by
  obtain ⟨hkind, hawaits, hsession, hchecked, hcrystal, hlock, hcheck⟩ := hw
  simp only at hsession hcrystal hlock
  have hlive := sessionLive_of_frames hf hl (hsession ▸ hcheck)
  obtain ⟨hcf, hcs⟩ := List.forall_mem_cons.1 (hf ▸ h.checked)
  refine (inv_iff _).2 ⟨⟨?_, ?_, ?_, ?_, ?_, hk.inflight.trans h.settled⟩, .inr (hsession ▸ hlive)⟩
  · simp only [hk.frames]
    exact stackOk_cons_cons.2 ⟨hawaits, stackOk_of_kind_eq hkind (hf ▸ h.stack)⟩
  · simp only [hk.frames, hsession, List.forall_mem_cons]
    exact ⟨nofun, fun w hw => (hchecked w hw).elim (hcf w) (hsession.symm.trans ·), hcs⟩
  · rcases hlock with hka | ⟨hhas, hpll, ha⟩
    · exact .inl ⟨k, by simp, hka⟩
    · refine (h.lock_pop hf hlive ha).imp ?_ fun hcon => .inr ((lockConsistent_congr hhas hpll).trans hcon)
      rintro ⟨g, hg, hat⟩
      exact ⟨g, by simp [hk.frames, hg], hat⟩
  · simp only [hk.ppm]
    rcases hcrystal with ⟨hx, _⟩ | hx <;> rw [hx]
    · exact h.crystalSet
    · rintro _ ⟨⟩; rfl
  · simp only [hk.frames, List.forall_mem_cons]
    rcases hcrystal with ⟨hx, htuner, hpast⟩ | hx <;> rw [hx]
    · intro hnone
      obtain ⟨hp, hq⟩ := h.crystalUnset hnone
      obtain ⟨hqf, hqs⟩ := List.forall_mem_cons.1 (hf ▸ hq)
      rw [hqf] at htuner hpast
      exact ⟨(htuner.resolve_right nofun).trans hp, rfl, Bool.eq_false_iff.2 fun hkp => (nomatch hpast hkp), hqs⟩
    · nofun

/-- A primitive is issued by no external command and by no lock attempt, and moves no state item. -/
theorem prim_inv {p : Primitive} (h : Sound s) (hf : s.frames = f :: fs) (hl : Live s ∨ AtCheck s)
    (hk : Kept { s with frames := fs } u) (hw : (Act.prim p k u).Within f { s with frames := fs }) :
    (transact p { u with frames := k :: u.frames }).inv = true := by
  obtain ⟨hkind, hsession, hchecked, hxtal, htuner, hpast, hhas, hpll, hfa, hka, hctl⟩ := hw
  simp only at hsession hxtal htuner hhas hpll
  have hlive := sessionLive_of_frames hf hl fun hc => by rw [hctl] at hc; cases hc
  obtain ⟨hcf, hcs⟩ := List.forall_mem_cons.1 (hf ▸ h.checked)
  refine transact_inv ⟨?_, ?_, ?_, ?_, ?_, hk.inflight.trans h.settled⟩ (hsession ▸ hlive)
  · simp only [hk.frames]
    exact stackOk_of_kind_eq hkind (hf ▸ h.stack)
  · simp only [hk.frames, hsession, List.forall_mem_cons]
    exact ⟨fun w hw => hcf w (hchecked w hw), hcs⟩
  · refine (h.lock_pop hf hlive hfa).imp ?_ fun hcon => .inr ((lockConsistent_congr hhas hpll).trans hcon)
    rintro ⟨g, hg, hat⟩
    exact ⟨g, by simp [hk.frames, hg], hat⟩
  · simp only [hk.ppm, hxtal]
    exact h.crystalSet
  · simp only [hk.frames, hxtal, htuner, List.forall_mem_cons]
    intro hnone
    obtain ⟨hp, hq⟩ := h.crystalUnset hnone
    obtain ⟨hqf, hqs⟩ := List.forall_mem_cons.1 (hf ▸ hq)
    rw [hqf] at hpast
    exact ⟨hp, Bool.eq_false_iff.2 fun hkp => (nomatch hpast hkp), hqs⟩

/-- `raise E`: the session fails, since only a primitive raises the error that `readSamples` handles. -/
theorem raise_inv {e : Error} (h : Sound s) (hk : Kept { s with frames := fs } u)
    (hw : (Act.raise e u).Within f { s with frames := fs }) : (errorEntry e u).inv = true := by
  obtain ⟨hbulk, _, hxtal, htuner, _⟩ := hw
  refine inv_of_no_frames rfl rfl (.inl (by simp [hbulk])) ?_ ?_
  · simp only [errorEntry_xtalFreq, errorEntry_ppm, hxtal, hk.ppm]
    exact h.crystalSet
  · simp only [errorEntry_xtalFreq, errorEntry_tunerPresent, hxtal, htuner]
    exact fun hx => (h.crystalUnset hx).1

/-- A run of statements leaves the invariant; it may start at an external command's session check. -/
theorem micro_inv (h : Sound s) (hl : Live s ∨ AtCheck s) (hm : micro s = .more t ∨ micro s = .done t) :
    t.inv = true := by
  unfold micro at hm
  split at hm
  · rename_i hf
    obtain rfl : s = t := by simpa using hm
    exact (inv_iff s).2 ⟨h, .inl hf⟩
  · rename_i f fs hf
    have hk := resume_kept f s.latch { s with frames := fs }
    have hw := resume_within f s.latch { s with frames := fs }
    generalize resume f s.latch { s with frames := fs } = a at hm hk hw
    cases a with
    | prim p k u =>
      have ht : transact p { u with frames := k :: u.frames } = t := by simpa [Act.move] using hm
      exact ht ▸ prim_inv h hf hl hk hw
    | call op k u =>
      have ht : { u with frames := .enter op :: k :: u.frames, latch := .unit } = t := by simpa [Act.move] using hm
      exact ht ▸ call_inv h hf hl hk hw
    | ret v u => exact returnValue_inv h hf hl hk hw hm
    | raise e u =>
      have ht : errorEntry e u = t := by simpa [Act.move] using hm
      exact ht ▸ raise_inv h hk hw
    | fault x => simp [Act.move] at hm

end Runs

theorem runMoves_inv {n : Nat} {s t : State} (h : s.inv = true) (hr : runMoves n s = .next t) : t.inv = true := by
  induction n generalizing s with
  | zero => cases hr; exact h
  | succ n ih =>
    obtain ⟨hsound, hlive⟩ := (inv_iff s).1 h
    simp only [runMoves] at hr
    split at hr
    · rename_i u hu; exact ih (micro_inv hsound (.inl hlive) (.inl hu)) hr
    · rename_i u hu; cases hr; exact micro_inv hsound (.inl hlive) (.inr hu)
    · cases hr

/-- A whole step's runs of statements leave the invariant, also from an external command's session check. -/
theorem runMoves_succ_inv {n : Nat} {s t : State} (h : Sound s) (hl : Live s ∨ AtCheck s)
    (hr : runMoves (n + 1) s = .next t) : t.inv = true := by
  simp only [runMoves] at hr
  split at hr
  · rename_i u hu; exact runMoves_inv (micro_inv h hl (.inl hu)) hr
  · rename_i u hu; cases hr; exact micro_inv h hl (.inr hu)
  · cases hr

/-! ### Where a step starts -/

/-- A command taken from the port stands alone on the stack. -/
theorem Sound.take {s : State} (h : Sound s) (hf : s.frames = []) (op : Op) (rest : List Record) :
    Sound { s with frames := [.enter op], latch := .unit, commands := rest } := by
  obtain ⟨-, -, hlock, hset, hunset, hsettled⟩ := h
  rw [hf] at hlock hunset
  refine ⟨rfl, ?_, .inr (hlock.resolve_left (by simp)), hset, fun hx => ⟨(hunset hx).1, ?_⟩, hsettled⟩ <;>
    rw [List.forall_mem_singleton]
  · nofun
  · rfl

/-- A batch calls the operation the record at its head is dispatched to (R75). -/
theorem micro_record {s : State} {op : Op} {c : WriteCommand} {cs : List WriteCommand} {fs : List Frame}
    (ho : dispatchOp c = some op) (hf : s.frames = .writeEachNext (c :: cs) :: fs) :
    micro s = .more { s with frames := .enter op :: .writeEachNext cs :: fs, latch := .unit } := by
  simp only [micro, hf, resume, loopWriteEach, ho, Act.move]

/-- The runs of statements of a step start in a sound state (R45, R75). -/
theorem Starts.sound {s u : State} (h : s.inv = true) (hs : Starts s u) : Sound u ∧ (Live u ∨ AtCheck u) := by
  obtain ⟨hsound, hlive⟩ := (inv_iff s).1 h
  cases hs with
  | resume hf e => subst e; exact ⟨hsound, .inl hlive⟩
  | record op c cs fs ho hf e =>
    subst e
    exact ((inv_iff _).1 (micro_inv hsound (.inl hlive) (.inl (micro_record ho hf)))).imp_right .inl
  | internal r rest op i hf hc hd hx hl e => subst e; exact ⟨hsound.take hf op rest, .inl (.inr hl)⟩
  | external r rest op i hf hc hd hi hx hq e => subst e; exact ⟨hsound.take hf op rest, .inr ⟨op, rfl, hq⟩⟩

/-! ### The statements -/

/-- Settles O8: a step's runs of statements start in a sound state, and every run leaves the invariant. -/
theorem stepKeepsInvariant : Obligations.StepKeepsInvariant := by
  intro s t h hstep
  obtain ⟨-, ⟨rfl, -⟩ | ⟨u, hu, hrun⟩⟩ := step_starts ((inv_iff s).1 h).1.settled hstep
  · exact h
  · obtain ⟨hsound, hlive⟩ := hu.sound h
    exact runMoves_succ_inv hsound hlive hrun

/-- Settles O9: each frame is called by one of a greater height, and the greatest height is 8. -/
theorem stackHoldsEightFrames : Obligations.StackHoldsEightFrames :=
  fun s h => stackOk_length ((inv_iff s).1 h).1.stack

end Sys2Proof.Machine
end

section
/-! SUPPORT. What a step does to the ports (R6, R14, R60), and the proof that it does no more. -/

namespace Sys2Proof.Machine

/-! ### The ports along a step -/

/-- The step so far has not used the transport port or answered on the command port. -/
structure Quiet (s t : State) : Prop where
  trace : t.trace = s.trace
  answers : t.answers = s.answers
  responses : t.responses = s.responses

/-- The step has issued at most one primitive, with its answer, and given at most one answer, which ends the command. -/
structure AtMostOnce (s t : State) : Prop where
  transport : t.trace = s.trace ∧ t.answers = s.answers ∨ ∃ p, t.trace = s.trace ++ [p] ∧ t.answers = s.answers.tail
  response : t.responses = s.responses ∨ ∃ a, t.responses = s.responses ++ [a] ∧ t.frames = []

theorem Quiet.trans {s t u : State} (h : Quiet s t) (k : Quiet t u) : Quiet s u :=
  ⟨k.trace.trans h.trace, k.answers.trans h.answers, k.responses.trans h.responses⟩

theorem Quiet.atMostOnce {s t : State} (h : Quiet s t) : AtMostOnce s t :=
  ⟨.inl ⟨h.trace, h.answers⟩, .inl h.responses⟩

theorem AtMostOnce.of_quiet {s t u : State} (h : Quiet s t) (k : AtMostOnce t u) : AtMostOnce s u := by
  obtain ⟨htrace, hanswers, hresponses⟩ := h
  exact ⟨by simpa only [htrace, hanswers] using k.transport, by simpa only [hresponses] using k.response⟩

theorem Kept.quiet {s t : State} {fs : List Frame} (h : Kept { s with frames := fs } t) : Quiet s t :=
  ⟨h.trace, h.answers, h.responses⟩

theorem Fixed.trans {s t u : State} (h : Fixed s t) (k : Fixed t u) : Fixed s u :=
  ⟨k.cfg.trans h.cfg, k.ppm.trans h.ppm, k.gainCfg.trans h.gainCfg, k.commands.trans h.commands,
    fun hi => k.inflight (h.inflight hi)⟩

/-- A primitive goes on the record with its answer; only its error answers the command port. -/
theorem transact_atMostOnce (p : Primitive) (s : State) (fs : List Frame) :
    AtMostOnce s (transact p { s with frames := fs }) := by
  rcases transact_cases p { s with frames := fs } with ⟨v, ht⟩ | ⟨e, ht⟩ <;> rw [ht]
  · exact ⟨.inr ⟨p, rfl, rfl⟩, .inl rfl⟩
  · exact ⟨.inr ⟨p, rfl, rfl⟩, .inr ⟨.err e, rfl, rfl⟩⟩

theorem errorEntry_atMostOnce (e : Error) (s : State) : AtMostOnce s (errorEntry e s) :=
  ⟨.inl ⟨rfl, rfl⟩, .inr ⟨.err e, rfl, rfl⟩⟩

theorem respond_atMostOnce (v : Value) (s : State) : AtMostOnce s (respond v s) :=
  ⟨.inl ⟨rfl, rfl⟩, .inr ⟨.ok v, rfl, rfl⟩⟩

/-- A run of statements that goes on uses no port; one that ends the step uses each at most once. -/
theorem micro_ports {s t : State} :
    (micro s = .more t → Quiet s t) ∧ (micro s = .done t → AtMostOnce s t) := by
  unfold micro
  split
  · exact ⟨nofun, fun h => by cases h; exact Quiet.atMostOnce ⟨rfl, rfl, rfl⟩⟩
  · rename_i f fs hf
    have hk := resume_kept f s.latch { s with frames := fs }
    generalize resume f s.latch { s with frames := fs } = a at hk ⊢
    cases a with
    | prim p k u => exact ⟨nofun, fun h => by cases h; exact .of_quiet hk.quiet (transact_atMostOnce _ _ _)⟩
    | call op k u => exact ⟨fun h => by cases h; exact ⟨hk.trace, hk.answers, hk.responses⟩, nofun⟩
    | ret v u =>
      simp only [Act.move, returnValue]
      split
      · exact ⟨nofun, fun h => by cases h; exact .of_quiet hk.quiet (respond_atMostOnce _ _)⟩
      · exact ⟨fun h => by cases h; exact ⟨hk.trace, hk.answers, hk.responses⟩, nofun⟩
    | raise e u => exact ⟨nofun, fun h => by cases h; exact .of_quiet hk.quiet (errorEntry_atMostOnce _ _)⟩
    | fault x => exact ⟨nofun, nofun⟩

theorem runMoves_ports {n : Nat} {s t : State} (h : runMoves n s = .next t) : AtMostOnce s t ∧ Fixed s t := by
  induction n generalizing s with
  | zero => cases h; exact ⟨Quiet.atMostOnce ⟨rfl, rfl, rfl⟩, rfl, rfl, rfl, rfl, id⟩
  | succ n ih =>
    simp only [runMoves] at h
    split at h
    · rename_i u hu
      obtain ⟨hports, hfixed⟩ := ih h
      exact ⟨.of_quiet (micro_ports.1 hu) hports, (micro_fixed (.inl hu)).trans hfixed⟩
    · rename_i u hu; cases h; exact ⟨micro_ports.2 hu, micro_fixed (.inr hu)⟩
    · cases h

/-- A step starts its runs of statements with both ports as they were, but for a command taken. -/
theorem Starts.ports {s u : State} (h : Starts s u) : Quiet s u ∧ u.inflight = s.inflight ∧
    (u.commands = s.commands ∨ s.frames = [] ∧ ∃ r, s.commands = r :: u.commands) := by
  cases h with
  | resume hf e => subst e; exact ⟨⟨rfl, rfl, rfl⟩, rfl, .inl rfl⟩
  | record op c cs fs ho hf e => subst e; exact ⟨⟨rfl, rfl, rfl⟩, rfl, .inl rfl⟩
  | internal r rest op i hf hc hd hx hl e => subst e; exact ⟨⟨rfl, rfl, rfl⟩, rfl, .inr ⟨hf, r, hc⟩⟩
  | external r rest op i hf hc hd hi hx hq e => subst e; exact ⟨⟨rfl, rfl, rfl⟩, rfl, .inr ⟨hf, r, hc⟩⟩

/-- Settles O12: only the last run of statements of a step uses a port, and only the step's start takes a command. -/
theorem onePrimitivePerStep : Obligations.OnePrimitivePerStep := by
  intro s t hi hstep
  obtain ⟨-, ⟨rfl, -⟩ | ⟨u, hu, hrun⟩⟩ := step_starts hi hstep
  · exact ⟨hi, .inl ⟨rfl, rfl⟩, .inl rfl, .inl rfl⟩
  · obtain ⟨hquiet, hinflight, hcommands⟩ := hu.ports
    obtain ⟨hports, hfixed⟩ := runMoves_ports hrun
    obtain ⟨htransport, hresponse⟩ := hports.of_quiet hquiet
    exact ⟨hfixed.inflight (hinflight.trans hi), htransport, hresponse, hfixed.commands ▸ hcommands⟩

end Sys2Proof.Machine
end

section
/-! SUPPORT. What a step fetches at each position (R45, R75), and the proof that it runs what it has decoded. -/

namespace Sys2Proof.Machine

/-! ### A step, by what it fetches -/

theorem step_of_instr {s t : State} {i : Instr} (hc : configured s = true) (hf : fetch s = .instr i t) :
    step s = exec i t := by simp only [step, hc, hf, if_true]

theorem step_of_resume {s : State} (hc : configured s = true) (hf : fetch s = .resume) : step s = advance s := by
  simp only [step, hc, hf, if_true]

theorem step_of_wait {s : State} (hc : configured s = true) (hf : fetch s = .wait) : step s = .next s := by
  simp only [step, hc, hf, if_true]

theorem step_of_malformed {s : State} {op : Byte} (hc : configured s = true) (hf : fetch s = .malformed op) :
    step s = .fault (malformedFault op s) := by simp only [step, hc, hf, if_true]

/-! ### What is fetched -/

/-- An idle block takes what its command port holds (R26, R45). -/
theorem Ready.fetch_eq {s : State} (h : Ready s) : fetch s = fetchCommand s := by
  obtain ⟨-, hf, hi⟩ := h
  simp only [fetch, hi, hf]

/-- A record at the head of a batch is fetched as its instruction (R75). -/
theorem fetch_record {s : State} {c : WriteCommand} {cs : List WriteCommand} {fs : List Frame} {i : Instr}
    (hi : s.inflight = none) (hf : s.frames = .writeEachNext (c :: cs) :: fs) (hc : c.instr = some i) :
    fetch s = .instr i { s with frames := .writeEachNext cs :: fs } := by
  simp only [fetch, hi, hf, hc]

/-- A WC record that is read as an instruction is the record that instruction runs (R51). -/
theorem instr_of_decode_wc {r : WCRecord} {i : Instr} (h : decode (.wc r) = .instr i) :
    (decodeWC r).instr = some i := by
  simp only [decode] at h
  split at h
  · rename_i j hj
    cases h
    exact hj
  · split at h <;> cases h

/-! ### A record of the wrong shape -/

theorem sessionLive_iff (w : Session) : sessionLive w = true ↔ w = .idle ∨ w = .opened := by
  cases w <;> simp [sessionLive]

theorem requiredSession_eq (op : Byte) : requiredSession op = if op = 0x40 then .idle else .opened := by
  have h : op.toNat = 0x40 ↔ op = 0x40 := BitVec.toNat_inj (y := 0x40#8)
  simp only [requiredSession, h]

/-- The fault of such a record, in the terms of R138 and R112. -/
theorem malformedFault_eq (op : Byte) (s : State) : malformedFault op s =
    if op.toNat < 0x40 then
      if s.cfg.testPort = true ∧ (s.session = .idle ∨ s.session = .opened) then .valueOutOfRange else .notPermitted
    else if s.session = (if op = 0x40 then .idle else .opened) then .valueOutOfRange else .wrongSessionState := by
  simp only [malformedFault, Bool.and_eq_true, sessionLive_iff, requiredSession_eq]

/-! ### The statement -/

/-- Settles O5: a step by what it fetches, and the fetch by the position. -/
theorem stepRunsDecoded : Obligations.StepRunsDecoded := by
  refine ⟨?command, ?record, ?resume, ?wait, ?malformed⟩
  case command =>
    intro s r rest i hs hcmd hd
    have hd : decodeCmd r = .instr i := hd
    exact step_of_instr hs.1 (by simp only [hs.fetch_eq, fetchCommand, hcmd, hd])
  case record =>
    intro s r cs fs i hc hi hf hd
    exact step_of_instr hc (fetch_record hi hf (instr_of_decode_wc hd))
  case resume =>
    intro s f fs hc hi hf hhead
    exact step_of_resume hc (fetch_resume hi hf hhead)
  case wait =>
    intro s hs hcmd
    exact step_of_wait hs.1 (by simp only [hs.fetch_eq, fetchCommand, hcmd])
  case malformed =>
    intro s r rest hs hcmd hd
    have hd : decodeCmd r = .malformed := hd
    have hfetch : fetch s = .malformed r.opcode := by simp only [hs.fetch_eq, fetchCommand, hcmd, hd]
    rw [step_of_malformed hs.1 hfetch, malformedFault_eq]

end Sys2Proof.Machine
end

section
/-! SUPPORT. The floor of the binary logarithm (R11). -/

namespace Sys2Proof.Machine

/-- The logarithm of a natural number, in rationals. -/
theorem log2_bounds {n : Nat} (h : n ≠ 0) :
    (2 : Rat) ^ (Nat.log2 n : Int) ≤ n ∧ (n : Rat) + 1 ≤ (2 : Rat) ^ ((Nat.log2 n : Int) + 1) := by
  have hle : 2 ^ Nat.log2 n ≤ n := Nat.log2_self_le h
  have hlt : n + 1 ≤ 2 ^ (Nat.log2 n + 1) := Nat.lt_log2_self
  exact ⟨by exact_mod_cast hle, by exact_mod_cast hlt⟩

/-- From 1 on, the logarithm is that of the floor of `q`. -/
theorem flog2_bounds_of_one_le {q : Rat} (h : 1 ≤ q) : (2 : Rat) ^ flog2 q ≤ q ∧ q < (2 : Rat) ^ (flog2 q + 1) := by
  have hf : flog2 q = (Nat.log2 ⌊q⌋₊ : Int) := by simp only [flog2, h, if_true]; rfl
  obtain ⟨hle, hlt⟩ := log2_bounds (n := ⌊q⌋₊) (Nat.floor_pos.2 h).ne'
  rw [hf]
  exact ⟨hle.trans (Nat.floor_le (by linarith)), (Nat.lt_floor_add_one q).trans_le hlt⟩

/-- Below 1, with `n < 1/q <= n + 1`, the logarithm is one less than minus that of `n`. -/
theorem flog2_bounds_of_lt_one {q : Rat} (h0 : 0 < q) (h : q < 1) :
    (2 : Rat) ^ flog2 q ≤ q ∧ q < (2 : Rat) ^ (flog2 q + 1) := by
  obtain ⟨n, hn⟩ : ∃ n, n = (-(-(1 / q)).floor - 1).toNat := ⟨_, rfl⟩
  have hf : flog2 q = -((Nat.log2 n : Int) + 1) := by
    simp only [flog2, not_le.2 h, if_false, ← hn]
    rfl
  have hinv : 1 < 1 / q := (one_lt_div h0).2 h
  have hfloor : ((-(1 / q)).floor : Rat) ≤ -(1 / q) := Rat.floor_le _
  have hfloor' : -(1 / q) < ((-(1 / q)).floor : Rat) + 1 := by exact_mod_cast Rat.lt_floor_add_one (-(1 / q))
  have hneg : (-(1 / q)).floor ≤ -2 := by
    have : ((-(1 / q)).floor : Rat) < -1 := by linarith
    have : (-(1 / q)).floor < -1 := by exact_mod_cast this
    omega
  have hcast : (n : Rat) = -((-(1 / q)).floor : Rat) - 1 := by
    have : (n : Int) = -(-(1 / q)).floor - 1 := by omega
    exact_mod_cast this
  obtain ⟨hle, hlt⟩ := log2_bounds (n := n) (by omega)
  rw [hf, zpow_neg, show -((Nat.log2 n : Int) + 1) + 1 = -(Nat.log2 n : Int) by ring, zpow_neg]
  constructor
  · rw [inv_le_comm₀ (by positivity) h0, ← one_div]
    linarith
  · rw [lt_inv_comm₀ h0 (by positivity), ← one_div]
    linarith

theorem flog2_bounds {q : Rat} (h : 0 < q) : (2 : Rat) ^ flog2 q ≤ q ∧ q < (2 : Rat) ^ (flog2 q + 1) := by
  rcases le_or_gt 1 q with h1 | h1
  · exact flog2_bounds_of_one_le h1
  · exact flog2_bounds_of_lt_one h h1

/-- The powers of two that bracket a rational have one exponent. -/
theorem zpow_bracket_unique {q : Rat} {j k : Int} (hj : (2 : Rat) ^ j ≤ q) (hj' : q < (2 : Rat) ^ (j + 1))
    (hk : (2 : Rat) ^ k ≤ q) (hk' : q < (2 : Rat) ^ (k + 1)) : k = j := by
  have hkj : k < j + 1 := (zpow_lt_zpow_iff_right₀ one_lt_two).1 (hk.trans_lt hj')
  have hjk : j < k + 1 := (zpow_lt_zpow_iff_right₀ one_lt_two).1 (hj.trans_lt hk')
  omega

/-- Settles O51: both ends of the bracket, from 1 on and below 1; and no other exponent has them. -/
theorem floorLog : Obligations.FloorLog := by
  intro q h
  obtain ⟨hle, hlt⟩ := flog2_bounds h
  exact ⟨⟨hle, hlt⟩, fun k hk hk' => zpow_bracket_unique hle hlt hk hk'⟩

end Sys2Proof.Machine
end

section
/-! SUPPORT. From the operations' simulations to their commands: the machine ends each instruction as its direct style
does (R6, R26, R132 to R134). -/

namespace Sys2Proof.Machine

/-! ### From runs of statements to the end of an instruction -/

section Ending

variable {α : Type} {i : Instr} {P fs : List Frame} {lv : Value} {w : α → Value} {x : Result α} {s : State}

@[simp] theorem Result.map_answers (x : Result α) : (x.map w).answers = x.answers := by cases x <;> rfl

/-- An error leaves the command as `failed` says, where the frames below show whether `readSamples` handles it. -/
theorem errorEntry_place {e : Error} {r : Run} (h : inReadSamples fs = isReadSamples i) (rest : List Answer) :
    errorEntry e (place r fs lv rest) = r.failed i e rest := by
  simp only [errorEntry, place, Run.failed, h]

/-- A simulation above `fs` leads to the end of the instruction, where `fs` hands a result on to the command port. -/
theorem Sim.ends {r : Run} (hs : Sim P lv r fs w x) (h0 : r.answers = [])
    (hret : ∀ v r1 rest, Returned fs (w v) r1 rest (.next (r1.answered (w v) rest)))
    (hin : inReadSamples fs = isReadSamples i) (rest : List Answer) :
    Ends (place r P lv (x.answers ++ rest)) ((x.map w).outcome i rest) := by
  cases x with
  | ok v r1 =>
    obtain ⟨a, ha, h⟩ := hs
    rw [show (Result.ok v r1).answers = a by simpa [Result.answers, h0] using ha]
    exact h rest _ (hret v r1 rest)
  | error e r1 =>
    obtain ⟨a, ha, h⟩ := hs
    rw [show (Result.error e r1 : Result α).answers = a by simpa [Result.answers, h0] using ha]
    have he := h rest
    rwa [errorEntry_place hin] at he
  | fault f r1 =>
    obtain ⟨a, ha, h⟩ := hs
    rw [show (Result.fault f r1 : Result α).answers = a by simpa [Result.answers, h0] using ha]
    exact h rest

/-- The runs of statements that end an operation end it in steps from its first one. -/
theorem Ends.reaches_begin {op : Op} {a : List Answer} {o : Host.Outcome State Fault Refusal}
    (h : Ends (place (Run.start s) (.enter op :: s.frames) .unit a) o) (hc : configured s = true)
    (hi : s.inflight = none) : Reaches (begin op { s with answers := a }) o := by
  have hp : ({ s with answers := a } : State).entering op = place (Run.start s) (.enter op :: s.frames) .unit a := by
    simp only [State.entering, place, Run.start, hi]
  unfold begin advance
  rw [hp]
  exact h.reaches hc rfl (List.cons_ne_nil _ _) _

end Ending

/-! ### The kinds of instructions -/

section Kinds

variable {α : Type} {O : Transport} {i : Instr} {op : Op} {s : State} {w : α → Value} {x : Result α}

/-- With no frame below, no error is handled (R133). -/
theorem end_eq_outcome (hi : isReadSamples i = false) (rest : List Answer) :
    x.end w rest = (x.map w).outcome i rest := by
  cases x with
  | ok v r => rfl
  | error e r => exact congrArg Host.Outcome.next (errorEntry_place (fs := []) hi.symm rest)
  | fault f r => rfl

/-- An operation that runs alone on the stack ends its command. -/
theorem begin_outcome (hs : Sim [.enter op] .unit (Run.start s) [] w x) (hr : Ready s) (hi : isReadSamples i = false)
    (rest : List Answer) : Reaches (begin op { s with answers := x.answers ++ rest }) ((x.map w).outcome i rest) := by
  obtain ⟨hc, hf, hin⟩ := hr
  rw [← end_eq_outcome hi]
  exact begin_reaches hs hc hf hin rest

/-- An external command other than `readSamples` (R112). -/
theorem follows_external (hs : Sim [.enter op] .unit (Run.start s) [] w x) (hr : Ready s)
    (hx : ∀ u, exec i u = begin op u := by intro; rfl) (hd : direct O i (Run.start s) = x.map w := by rfl)
    (hi : isReadSamples i = false := by rfl) : Follows O i s := by
  intro rest
  simp only [hd, Result.map_answers, hx]
  exact begin_outcome hs hr hi rest

/-- An internal command: the port accepts it, and it runs alone on the stack (R138). -/
theorem follows_internal (hs : Sim [.enter op] .unit (Run.start s) [] w x) (hr : ReadyInternal s)
    (hx : ∀ u, exec i u = beginInternal op u := by intro; rfl) (hd : direct O i (Run.start s) = x.map w := by rfl)
    (hi : isReadSamples i = false := by rfl) : Follows O i s := by
  obtain ⟨hready, htest, hlive⟩ := hr
  intro rest
  simp only [hd, Result.map_answers, hx, beginInternal, htest, hlive, Bool.and_self, if_true]
  exact begin_outcome hs hready hi rest

/-- A record runs above the frame of its batch, which has no other record left and returns (R75). -/
theorem follows_record {c : WriteCommand} (ho : dispatchOp c = some op) (hr : ReadyRecord s)
    (hx : ∀ u, exec i u = begin op u := by intro; rfl)
    (hd : direct O i (Run.start s) = (directRecord O c (Run.start s)).map unitValue := by rfl)
    (hi : isReadSamples i = false := by rfl) : Follows O i s := by
  obtain ⟨hc, hf, hin⟩ := hr
  intro rest
  simp only [hd, Result.map_answers, hx]
  refine Ends.reaches_begin ?_ hc hin
  rw [hf]
  refine (sim_record ho (Run.start s) [.writeEachNext []]).ends rfl (fun v r1 rest => ?_) hi.symm rest
  exact .finish rfl rfl

/-- `readSamples` calls its bulk read, or one of its own checks stops it (R123). -/
theorem readSamples_cases (O : Transport) (n : Int) (r : Run) :
    (directReadSamples O n r = directReadBulk O (2 * n) r ∧
      ∀ a, micro (place r [.enter (.readSamples n)] .unit a) =
        .more (place r [.enter (.readBulk (2 * n)), .readSamplesData] .unit a)) ∨
    ∃ f, directReadSamples O n r = .fault f r ∧
      ∀ a, micro (place r [.enter (.readSamples n)] .unit a) = .fault f := by
  simp only [micro_place, resume, enterOp, enterReadSamples, requireSession, place_session, place_streamReady]
  unfold directReadSamples directSession
  split
  · split
    · exact .inr ⟨_, rfl, fun _ => rfl⟩
    · split
      · rename_i hr
        exact .inl ⟨rfl, fun _ => by simp only [hr, if_true]; rfl⟩
      · rename_i hr
        exact .inr ⟨_, rfl, fun _ => by simp only [hr, Bool.false_eq_true, if_false]; rfl⟩
  · rename_i hs
    exact .inr ⟨_, rfl, fun _ => by simp only [hs, if_false]; rfl⟩

/-- The bulk read of `readSamples` runs above the frame whose handler takes its error (R123, R133). -/
theorem follows_readSamples (n : Int) (hr : Ready s) : Follows O (.readSamples n) s := by
  obtain ⟨hc, hf, hin⟩ := hr
  intro rest
  simp only [direct, Result.map_answers]
  refine Ends.reaches_begin ?_ hc hin
  rw [hf]
  rcases readSamples_cases O n (Run.start s) with ⟨hd, hm⟩ | ⟨f, hd, hm⟩ <;> rw [hd]
  · exact .more (hm _) ((sim_readBulk _ _ [.readSamplesData]).ends rfl (fun _ _ _ => Ends.finish rfl rfl) rfl rest)
  · exact .fault (hm _)

end Kinds

/-- Settles O15: each instruction by the simulation of its operation. -/
theorem machineFollowsDirectStyle : Obligations.MachineFollowsDirectStyle := by
  intro O i s ha
  cases i with
  | writeReg b a v n => exact follows_internal (sim_writeReg b a v n _ _) ha
  | readReg b a n => exact follows_internal (sim_readReg b a n _ _) ha
  | writeRegMask b a v m => exact follows_internal (sim_writeRegMask b a v m _ _) ha
  | writeDemodReg p a v n => exact follows_internal (sim_writeDemodReg p a v n _ _) ha
  | readDemodReg p a => exact follows_internal (sim_readDemodReg p a _ _) ha
  | openI2C => exact follows_internal (sim_openI2C _ _) ha
  | closeI2C => exact follows_internal (sim_closeI2C _ _) ha
  | readI2CReg d a => exact follows_internal (sim_readI2CReg d a _ _) ha
  | writeI2CReg d a v => exact follows_internal (sim_writeI2CReg d a v _ _) ha
  | readI2CRegBuffer d a n => exact follows_internal (sim_readI2CRegBuffer d a n _ _) ha
  | writeI2CRegBuffer d a bs => exact follows_internal (sim_writeI2CRegBuffer d a bs _ _) ha
  | writeEach cs => exact follows_internal (sim_writeEach cs _ _) ha
  | claimInterface => exact follows_internal (sim_claim _ _) ha
  | releaseInterface => exact follows_internal (sim_release _ _) ha
  | readBulk n => exact follows_internal (sim_readBulk n _ _) ha
  | tunerCheck => exact follows_internal (sim_check _ _) ha
  | tunerInit => exact follows_internal (sim_tunerInit _ _) ha
  | tunerInitElectronics => exact follows_internal (sim_initElectronics _ _) ha
  | tunerSetFrequency f => exact follows_internal (sim_setFrequency f _ _) ha
  | tunerSetMux f => exact follows_internal (sim_setMux f _ _) ha
  | tunerSetPll f => exact follows_internal (sim_setPll f _ _) ha
  | tunerGetPllLock first => exact follows_internal (sim_getPllLock first _ _) ha
  | tunerCalibrateFilter first => exact follows_internal (sim_calibrateFilter first _ _) ha
  | tunerSetAutoGain => exact follows_internal (sim_setAutoGain _ _) ha
  | tunerSetManualGain g => exact follows_internal (sim_setManualGain g _ _) ha
  | tunerReadRegBuffer a n => exact follows_internal (sim_readRegBuffer a n _ _) ha
  | tunerWriteRegMask a v m => exact follows_internal (sim_masked ⟨a, v, m⟩ _ _) ha
  | tunerClose => exact follows_internal (sim_tunerClose _ _) ha
  | controllerOpen => exact follows_external (sim_open _ _) ha
  | setSampleRate f => exact follows_external (sim_setSampleRate f _ _) ha
  | setCenterFrequency f => exact follows_external (sim_setCenterFrequency f _ _) ha
  | setGain g => exact follows_external (sim_setGain g _ _) ha
  | resetBuffer => exact follows_external (sim_resetBuffer _ _) ha
  | readSamples n => exact follows_readSamples n ha
  | controllerClose => exact follows_external (sim_close _ _) ha
  | wcReg b a v n => exact follows_record (c := .reg b a v n) rfl ha
  | wcRegMask b a v m => exact follows_record (c := .regMask b a v m) rfl ha
  | wcDemodReg p a v n => exact follows_record (c := .demodReg p a v n) rfl ha
  | wcI2CReg d a v => exact follows_record (c := .i2cReg d a v) rfl ha

end Sys2Proof.Machine
end

section
/-! SUPPORT. What the direct operations put on the record of primitives, and what the tuner of the device model makes
of it (R32, R38); and the proof that the shadow bank mirrors the tuner (R21, R85). -/

namespace Sys2Proof.Machine

/-! ### The tuner along the transfers of the block -/

section Tuner

variable (c : Config) (d : Tuner)

@[simp] theorem Tuner.after_nil : d.after c [] = d := rfl

@[simp] theorem Tuner.after_cons (p : Primitive) (ps : List Primitive) :
    d.after c (p :: ps) = (d.take c p).after c ps := rfl

theorem Tuner.after_append (ps qs : List Primitive) : d.after c (ps ++ qs) = (d.after c ps).after c qs :=
  List.foldl_append ..

@[simp] theorem Tuner.take_i2cWrite (bs : List Byte) : d.take c (i2cWrite c TUNER_I2C_ADDR bs) = d.receive c bs :=
  if_pos ⟨rfl, rfl⟩

@[simp] theorem Tuner.take_i2cRead (n : Nat) :
    d.take c (i2cRead c TUNER_I2C_ADDR n) = { d with selected := none } := if_pos ⟨rfl, rfl⟩

/-- Selecting a register to read leaves no index selected, whatever came before. -/
theorem Tuner.after_read_selected (reg : Int) (n : Nat) :
    (d.after c (i2cReadPrims c TUNER_I2C_ADDR reg n)).selected = none := by simp [i2cReadPrims]

variable {c d}

/-- An index byte selects a register of a tuner that waits for one, in both forms of the write (R32). -/
theorem Tuner.receive_index (h : d.selected = none) (a : Byte) : d.receive c [a] = { d with selected := some a } := by
  cases hf : c.i2cWriteForm <;> simp only [Tuner.receive, hf, h]

/-- A read of the tuner changes none of its registers (R38). -/
theorem Tuner.after_read (h : d.selected = none) (reg : Int) (n : Nat) :
    d.after c (i2cReadPrims c TUNER_I2C_ADDR reg n) = d := by
  simp only [i2cReadPrims, Tuner.after_cons, Tuner.take_i2cWrite, Tuner.receive_index h, Tuner.take_i2cRead,
    Tuner.after_nil, ← h]

/-- A write of one byte stores it, in both forms (R32). -/
theorem Tuner.after_write (h : d.selected = none) (reg : Int) (v : Byte) :
    d.after c (i2cWritePrims c TUNER_I2C_ADDR reg [v]) = d.store (byteOf reg) v := by
  cases hf : c.i2cWriteForm <;>
    simp only [i2cWritePrims, hf, Tuner.after_cons, Tuner.take_i2cWrite, Tuner.after_nil, Tuner.receive, h]
  unfold Tuner.store
  split <;> rfl

theorem shadowIndex_eq_some {a : Int} {i : Fin 27} : shadowIndex a = some i ↔ a = 5 + (i : Int) := by
  have hi := i.isLt
  unfold shadowIndex SHADOW_LO SHADOW_HI
  split
  · rw [Option.some.injEq, Fin.ext_iff]
    simp only
    omega
  · simp only [reduceCtorEq, false_iff]
    omega

theorem byteOf_toNat {z : Int} (h0 : 0 ≤ z) (h : z ≤ 255) : ((byteOf z).toNat : Int) = z := by
  simp only [byteOf, BitVec.toNat_ofInt]
  omega

theorem byteOf_natCast_toNat (b : Byte) : byteOf (b.toNat : Int) = b := by
  simp [byteOf]

/-- A byte stored in a shadowed register. -/
theorem Tuner.store_shadowed {a : Int} {i : Fin 27} (h : shadowIndex a = some i) (v : Byte) :
    d.store (byteOf a) v = { selected := none, regs := d.regs.set i (some v) } := by
  have ha := shadowIndex_eq_some.1 h
  have hb : ((byteOf a).toNat : Int) = a := byteOf_toNat (by omega) (by omega)
  simp only [Tuner.store, hb, h]

end Tuner

/-- A primitive that is no transfer to or from the tuner. -/
def Away (p : Primitive) : Prop := ∀ (c : Config) (d : Tuner), d.take c p = d

theorem after_of_away {c : Config} {ps : List Primitive} (h : ∀ p ∈ ps, Away p) (d : Tuner) : d.after c ps = d := by
  induction ps with
  | nil => rfl
  | cons p ps ih =>
    obtain ⟨hp, hps⟩ := List.forall_mem_cons.1 h
    rw [Tuner.after_cons, hp c d, ih hps]

/-- The address of a demodulator register has a low byte that no I2C device of the block has (R31). -/
theorem demodValue_ne_tuner (a : Int) : demodValue a ≠ half TUNER_I2C_ADDR := by
  intro h
  have hbit := congrArg (BitVec.getLsbD · 2) h
  simp [demodValue, DEMOD_SUFFIX, half, TUNER_I2C_ADDR] at hbit

theorem away_demodOut (a : Int) (i : Half) (bs : List Byte) : Away (.ctrlOut (demodValue a) i bs) :=
  fun _ _ => if_neg fun h => demodValue_ne_tuner a h.1

theorem away_demodIn (a : Int) (i : Half) (n : Nat) : Away (.ctrlIn (demodValue a) i n) :=
  fun _ _ => if_neg fun h => demodValue_ne_tuner a h.1

/-! ### What an operation puts on the record -/

/-- From `s` to `t` only the record of primitives has grown, by primitives of the kind `A`. -/
def Sends (A : Primitive → Prop) (s t : State) : Prop :=
  ∃ ps, (∀ p ∈ ps, A p) ∧ t = { s with trace := s.trace ++ ps }

/-- Every primitive. -/
def AnyPrimitive (_ : Primitive) : Prop := True

section Sending

variable {α : Type} {A : Primitive → Prop} {O : Transport} {s t u : State}

theorem Sends.refl (s : State) : Sends A s s := ⟨[], nofun, by simp⟩

theorem Sends.trans (h : Sends A s t) (k : Sends A t u) : Sends A s u := by
  obtain ⟨ps, hps, rfl⟩ := h
  obtain ⟨qs, hqs, rfl⟩ := k
  exact ⟨ps ++ qs, List.forall_mem_append.2 ⟨hps, hqs⟩, by simp⟩

theorem Sends.of_prims {ps : List Primitive} (h : t = { s with trace := s.trace ++ ps }) : Sends AnyPrimitive s t :=
  ⟨ps, fun _ _ => trivial, h⟩

theorem Sends.any (h : Sends A s t) : Sends AnyPrimitive s t := by
  obtain ⟨ps, -, ht⟩ := h
  exact .of_prims ht

theorem ask_sends {p : Primitive} (h : A p) (r : Run) : (ask O p r).When fun _ r1 => Sends A r.state r1.state :=
  when_mono (ask_state p r) fun _ _ e => ⟨[p], by simpa using h, e⟩

/-- A transfer whose bytes are then decoded. -/
theorem ask_decode_sends {p : Primitive} (h : A p) (r : Run) :
    ((ask O p r).andThen directDecode).When fun _ r1 => Sends A r.state r1.state :=
  when_andThen (ask_sends h r) fun _ _ k => when_mono (decode_frame _ _) fun _ _ e => e ▸ k

theorem writeReg_sends (b a v w : Int) (r : Run) :
    (directWriteReg O b a v w r).When fun _ r1 => Sends AnyPrimitive r.state r1.state := by
  unfold directWriteReg
  split
  · exact when_fault
  split
  · split
    · exact when_stop
    · exact when_andThen (ask_sends trivial _) fun _ _ h => when_ok h
  · exact when_fault

theorem readReg_sends (b a w : Int) (r : Run) :
    (directReadReg O b a w r).When fun _ r1 => Sends AnyPrimitive r.state r1.state := by
  unfold directReadReg
  split
  · exact when_fault
  split
  · split
    · exact ask_decode_sends trivial r
    · exact when_error
  · exact when_fault

theorem writeRegMask_sends (b a v m : Int) (r : Run) :
    (directWriteRegMask O b a v m r).When fun _ r1 => Sends AnyPrimitive r.state r1.state := by
  unfold directWriteRegMask
  split
  · split
    · exact writeReg_sends ..
    · exact when_andThen (readReg_sends ..) fun _ _ h => when_mono (writeReg_sends ..) fun _ _ k => h.trans k
  · exact when_fault

/-- A demodulator read sends the tuner nothing (R31, R68). -/
theorem readDemodReg_sends (p a : Int) (r : Run) :
    (directReadDemodReg O p a r).When fun _ r1 => Sends Away r.state r1.state := by
  unfold directReadDemodReg
  split
  · split
    · exact ask_decode_sends (away_demodIn _ _ _) r
    · exact when_fault
  · exact when_fault

/-- A demodulator write and its poll send the tuner nothing (R31, R67). -/
theorem writeDemodReg_sends (p a v w : Int) (r : Run) :
    (directWriteDemodReg O p a v w r).When fun _ r1 => Sends Away r.state r1.state := by
  unfold directWriteDemodReg
  split
  · split
    · split
      · exact when_stop
      · exact when_andThen (ask_sends (away_demodOut _ _ _) _) fun _ _ h =>
          when_andThen (readDemodReg_sends ..) fun _ _ k => when_ok (h.trans k)
    · exact when_fault
  · exact when_fault

/-- The exact primitives of a write through the I2C proxy (R72, R74). -/
theorem i2cWrite_prims (dev reg : Int) (bs : List Byte) (r : Run) :
    (directI2CWrite O dev reg bs r).When fun _ r1 =>
      r1.state = { r.state with trace := r.state.trace ++ i2cWritePrims r.state.cfg dev reg bs } := by
  unfold directI2CWrite i2cWritePrims
  split
  · refine when_andThen (ask_state _ _) fun _ _ h => when_andThen (ask_state _ _) fun _ _ k => when_ok ?_
    rw [k, h]
    simp
  · exact when_andThen (ask_state _ _) fun _ _ h => when_ok h

/-- The exact primitives of a read through the I2C proxy (R71, R73). -/
theorem i2cRead_prims (dev reg : Int) (n : Nat) (r : Run) :
    (directI2CRead O dev reg n r).When fun _ r1 =>
      r1.state = { r.state with trace := r.state.trace ++ i2cReadPrims r.state.cfg dev reg n } := by
  unfold directI2CRead i2cReadPrims
  refine when_andThen (ask_state _ _) fun _ _ h => when_andThen (ask_state _ _) fun _ _ k => when_ok ?_
  rw [k, h]
  simp

theorem writeI2CReg_prims (dev reg v : Int) (r : Run) :
    (directWriteI2CReg O dev reg v r).When fun _ r1 =>
      r1.state = { r.state with trace := r.state.trace ++ i2cWritePrims r.state.cfg dev reg [byteOf v] } := by
  unfold directWriteI2CReg
  split
  · split
    · exact i2cWrite_prims ..
    · exact when_fault
  · exact when_fault

theorem writeI2CRegBuffer_prims (dev reg : Int) (bs : List Byte) (r : Run) :
    (directWriteI2CRegBuffer O dev reg bs r).When fun _ r1 =>
      r1.state = { r.state with trace := r.state.trace ++ i2cWritePrims r.state.cfg dev reg bs } := by
  unfold directWriteI2CRegBuffer
  split
  · split
    · split
      · exact i2cWrite_prims ..
      · exact when_fault
    · exact when_fault
  · exact when_fault

theorem readI2CReg_prims (dev reg : Int) (r : Run) :
    (directReadI2CReg O dev reg r).When fun _ r1 =>
      r1.state = { r.state with trace := r.state.trace ++ i2cReadPrims r.state.cfg dev reg 1 } := by
  unfold directReadI2CReg
  split
  · split
    · exact when_andThen (i2cRead_prims ..) fun _ _ h => when_ok h
    · exact when_fault
  · exact when_fault

theorem readI2CRegBuffer_prims (dev reg n : Int) (r : Run) :
    (directReadI2CRegBuffer O dev reg n r).When fun _ r1 =>
      r1.state = { r.state with trace := r.state.trace ++ i2cReadPrims r.state.cfg dev reg n.toNat } := by
  unfold directReadI2CRegBuffer
  split
  · split
    · split
      · exact i2cRead_prims ..
      · exact when_fault
    · exact when_fault
  · exact when_fault

theorem record_sends (c : WriteCommand) (r : Run) :
    (directRecord O c r).When fun _ r1 => Sends AnyPrimitive r.state r1.state := by
  cases c with
  | reg b a v w => exact writeReg_sends ..
  | regMask b a v m => exact writeRegMask_sends ..
  | demodReg p a v w => exact when_mono (writeDemodReg_sends ..) fun _ _ h => h.any
  | i2cReg d a v => exact when_mono (writeI2CReg_prims ..) fun _ _ h => .of_prims h
  | unknown tag fields =>
    simp only [directRecord]
    split
    · exact when_fault
    · exact when_error

/-- A batch sends what its records send. -/
theorem writeEach_sends {cs : List WriteCommand}
    (hA : ∀ c ∈ cs, ∀ r, (directRecord O c r).When fun _ r1 => Sends A r.state r1.state) :
    ∀ r, (directWriteEach O cs r).When fun _ r1 => Sends A r.state r1.state := by
  induction cs with
  | nil => exact fun r => when_ok (.refl _)
  | cons c cs ih =>
    obtain ⟨hc, hcs⟩ := List.forall_mem_cons.1 hA
    exact fun r => when_andThen (hc r) fun _ r1 h => when_mono (ih hcs r1) fun _ _ k => h.trans k

theorem writeEach_sends_any (cs : List WriteCommand) (r : Run) :
    (directWriteEach O cs r).When fun _ r1 => Sends AnyPrimitive r.state r1.state :=
  writeEach_sends (fun c _ => record_sends c) r

/-- A batch of demodulator writes sends the tuner nothing. -/
theorem writeEach_sends_away {cs : List WriteCommand} (h : allDemod cs = true) (r : Run) :
    (directWriteEach O cs r).When fun _ r1 => Sends Away r.state r1.state := by
  refine writeEach_sends (fun c hc => ?_) r
  have hd := List.all_eq_true.1 h c hc
  cases c with
  | demodReg p a v w => exact writeDemodReg_sends p a v w
  | _ => cases hd

theorem readBulk_sends (n : Int) (r : Run) :
    (directReadBulk O n r).When fun _ r1 => Sends AnyPrimitive r.state r1.state := by
  unfold directReadBulk
  split
  · split
    · exact when_andThen (ask_sends trivial _) fun _ _ h => when_ok h
    · exact when_fault
  · exact when_fault

end Sending

/-! ### The tuner beside the shadow bank -/

/-- A relation between the tuner and the shadow bank. -/
abbrev Beside := Tuner → Vector (Option Byte) 27 → Prop

/-- The shadow bank equals the tuner's registers, and no index is selected: `Mirrors`, of the bank (R21). -/
def InStep : Beside := fun d b => d.selected = none ∧ d.regs = b

/-- No index is selected. -/
def Idle : Beside := fun d _ => d.selected = none

/-- No index is selected, and every register equals its shadow cell but those still to be written (R86). -/
def InStepBut (is : List (Fin 27)) : Beside := fun d b => d.selected = none ∧ ∀ i : Fin 27, i ∉ is → d.regs[i] = b[i]

/-- Nothing is known of the tuner. -/
def Unrelated : Beside := fun _ _ => True

/-- The relation `P`, under a condition. -/
def Given (A : Prop) (P : Beside) : Beside := fun d b => A → P d b

theorem mirrors_iff (d : Tuner) (s : State) : Mirrors d s ↔ InStep d s.shadow := Iff.rfl

theorem inStepBut_nil {d : Tuner} {b : Vector (Option Byte) 27} (h : InStepBut [] d b) : InStep d b :=
  ⟨h.1, Vector.ext fun i hi => h.2 ⟨i, hi⟩ nofun⟩

theorem inStepBut_all {d : Tuner} {b : Vector (Option Byte) 27} (h : Idle d b) : InStepBut (List.finRange 27) d b :=
  ⟨h, fun i hi => absurd (List.mem_finRange i) hi⟩

/-- From `s` to `t` the record has grown by primitives that take a tuner in the relation `P` to `s`'s shadow bank to one
in the relation `Q` to `t`'s; the configuration and `ppm` have stayed. -/
structure Leads (P Q : Beside) (s t : State) : Prop where
  cfg : t.cfg = s.cfg
  ppm : t.ppm = s.ppm
  tuner : ∃ ps, t.trace = s.trace ++ ps ∧ ∀ d, P d s.shadow → Q (d.after s.cfg ps) t.shadow

section Leading

variable {P P' Q Q' R : Beside} {s t u : State}

theorem Leads.mono (h : Leads P Q s t) (hP : ∀ d b, P' d b → P d b) (hQ : ∀ d b, Q d b → Q' d b) : Leads P' Q' s t := by
  obtain ⟨hc, hp, ps, ht, hd⟩ := h
  exact ⟨hc, hp, ps, ht, fun d k => hQ _ _ (hd d (hP _ _ k))⟩

theorem Leads.trans (h : Leads P Q s t) (k : Leads Q R t u) : Leads P R s u := by
  obtain ⟨hc, hp, ps, ht, hd⟩ := h
  obtain ⟨hc', hp', qs, hu, he⟩ := k
  refine ⟨hc'.trans hc, hp'.trans hp, ps ++ qs, by rw [hu, ht, List.append_assoc], fun d hP => ?_⟩
  have hR := he _ (hd d hP)
  rwa [hc, ← Tuner.after_append] at hR

theorem Leads.guard (A : Prop) (h : Leads P Q s t) : Leads (Given A P) (Given A Q) s t := by
  obtain ⟨hc, hp, ps, ht, hd⟩ := h
  exact ⟨hc, hp, ps, ht, fun d k ha => hd d (k ha)⟩

theorem Sends.leads_unrelated {A : Primitive → Prop} (h : Sends A s t) : Leads Unrelated Unrelated s t := by
  obtain ⟨ps, -, rfl⟩ := h
  exact ⟨rfl, rfl, ps, rfl, fun _ _ => trivial⟩

/-- Transfers that are not the tuner's leave it beside the bank as it was. -/
theorem Sends.leads (h : Sends Away s t) : Leads P P s t := by
  obtain ⟨ps, hps, rfl⟩ := h
  exact ⟨rfl, rfl, ps, rfl, fun d hd => by rwa [after_of_away hps]⟩

/-- State items that the relation does not see may be written. -/
theorem Leads.of_same (hc : t.cfg = s.cfg) (hp : t.ppm = s.ppm) (ht : t.trace = s.trace) (hs : t.shadow = s.shadow) :
    Leads P P s t := ⟨hc, hp, [], by simp [ht], fun d hd => by rwa [hs]⟩

theorem Leads.from_same (h : Leads P Q t u) (hc : t.cfg = s.cfg := by rfl) (hp : t.ppm = s.ppm := by rfl)
    (ht : t.trace = s.trace := by rfl) (hs : t.shadow = s.shadow := by rfl) : Leads P Q s u :=
  (Leads.of_same hc hp ht hs).trans h

/-- A read of the tuner leaves it idle, whatever it was. -/
theorem leads_read_idle {reg : Int} {n : Nat}
    (h : t = { s with trace := s.trace ++ i2cReadPrims s.cfg TUNER_I2C_ADDR reg n }) : Leads Unrelated Idle s t := by
  subst h
  exact ⟨rfl, rfl, _, rfl, fun d _ => d.after_read_selected _ _ _⟩

/-- A read of the tuner leaves it in step. -/
theorem leads_read {reg : Int} {n : Nat}
    (h : t = { s with trace := s.trace ++ i2cReadPrims s.cfg TUNER_I2C_ADDR reg n }) : Leads InStep InStep s t := by
  subst h
  exact ⟨rfl, rfl, _, rfl, fun d hd => by rwa [Tuner.after_read hd.1]⟩

/-- A byte stored in a shadow cell and sent to its register. -/
theorem leads_write {i : Fin 27} {reg : Int} {b : Byte} (hi : shadowIndex reg = some i)
    (h : t = { setShadow s i b with trace := s.trace ++ i2cWritePrims s.cfg TUNER_I2C_ADDR reg [b] })
    (hP : ∀ d bank, P d bank → d.selected = none ∧ Q ⟨none, d.regs.set i (some b)⟩ (bank.set i (some b))) :
    Leads P Q s t := by
  subst h
  refine ⟨rfl, rfl, _, rfl, fun d hd => ?_⟩
  obtain ⟨hsel, hQ⟩ := hP _ _ hd
  rw [Tuner.after_write hsel, Tuner.store_shadowed hi]
  exact hQ

end Leading

theorem when_and {α : Type} {x : Result α} {P Q : α → Run → Prop} (hP : x.When P) (hQ : x.When Q) :
    x.When fun v r => P v r ∧ Q v r := by
  cases x with
  | ok v r => exact ⟨hP, hQ⟩
  | _ => trivial

/-- An operation run from `s`, where it returns, leads from `P` to `Q`. -/
def Result.Carries {α : Type} (P Q : Beside) (s : State) (x : Result α) : Prop := x.When fun _ r => Leads P Q s r.state

section Carrying

variable {α β : Type} {O : Transport} {P Q R : Beside} {s : State}

theorem carries_andThen {x : Result α} {g : α → Run → Result β} (hx : x.Carries P Q s)
    (hg : ∀ v r, (g v r).Carries Q R r.state) : (x.andThen g).Carries P R s :=
  when_andThen hx fun v r h => when_mono (hg v r) fun _ _ k => h.trans k

/-- The result is returned, with state items written that the relation does not see. -/
theorem carries_return {v : α} {r : Run} (hc : r.state.cfg = s.cfg := by rfl) (hp : r.state.ppm = s.ppm := by rfl)
    (ht : r.state.trace = s.trace := by rfl) (hs : r.state.shadow = s.shadow := by rfl) :
    (Result.ok v r).Carries P P s := when_ok (.of_same hc hp ht hs)

/-- The operation begins with state items written that the relation does not see. -/
theorem carries_begin {x : Result α} {t : State} (hx : x.Carries P Q t) (hc : t.cfg = s.cfg := by rfl)
    (hp : t.ppm = s.ppm := by rfl) (ht : t.trace = s.trace := by rfl) (hs : t.shadow = s.shadow := by rfl) :
    x.Carries P Q s := when_mono hx fun _ _ h => h.from_same hc hp ht hs

theorem carries_map {x : Result α} {w : α → β} (hx : x.Carries P Q s) : (x.map w).Carries P Q s :=
  carries_andThen hx fun _ _ => carries_return

/-! ### The tuner operations -/

theorem readRegBuffer_carries (a n : Int) (r : Run) : (directReadRegBuffer O a n r).Carries InStep InStep r.state := by
  refine when_tuner ?_
  split
  · exact carries_andThen (when_mono (readI2CRegBuffer_prims ..) fun _ _ h => leads_read h) fun _ _ => carries_return
  · exact when_fault

theorem check_carries (r : Run) : (directCheck O r).Carries InStep InStep r.state :=
  carries_andThen (when_mono (readI2CReg_prims ..) fun _ _ h => leads_read h) fun _ _ => carries_return

/-- A probe leaves the tuner idle, whatever it was (R80). -/
theorem check_carries_idle (r : Run) : (directCheck O r).Carries Unrelated Idle r.state :=
  carries_andThen (when_mono (readI2CReg_prims ..) fun _ _ h => leads_read_idle h) fun _ _ => carries_return

theorem masked_carries (w : MaskedWrite) (r : Run) : (directMasked O w r).Carries InStep InStep r.state := by
  refine when_tuner ?_
  split
  · exact when_fault
  rename_i i hi
  split
  · split
    · exact when_fault
    rename_i old hold
    split
    · refine when_mono (writeI2CReg_prims ..) fun _ _ h => ?_
      rw [byteOf_natCast_toNat] at h
      exact leads_write hi h fun d bank ⟨hsel, hregs⟩ => ⟨hsel, rfl, by rw [hregs]⟩
    · exact when_fault
  · exact when_fault

theorem maskedAll_carries (ws : List MaskedWrite) : ∀ r : Run,
    (directMaskedAll O ws r).Carries InStep InStep r.state := by
  induction ws with
  | nil => exact fun r => carries_return
  | cons w ws ih => exact fun r => carries_andThen (masked_carries w r) fun _ r1 => ih r1

theorem attempt_carries (a : Attempt) (r : Run) : (directAttempt O a r).Carries InStep InStep r.state :=
  carries_andThen (carries_begin (readRegBuffer_carries ..)) fun _ _ => carries_return

theorem secondAttempt_carries (r : Run) : (directSecondAttempt O r).Carries InStep InStep r.state := by
  refine carries_andThen (attempt_carries _ _) fun _ _ => ?_
  split <;> exact carries_return

theorem getPllLock_carries (first : Bool) (r : Run) : (directGetPllLock O first r).Carries InStep InStep r.state := by
  refine when_tuner ?_
  split
  · refine carries_andThen (attempt_carries _ _) fun _ _ => ?_
    split
    · exact carries_return
    · exact carries_andThen (masked_carries _ _) fun _ _ => secondAttempt_carries _
  · exact secondAttempt_carries _

theorem synthesize_carries (mixDiv : Rat) (nint : Int) (fra : Rat) (r : Run) :
    (directSynthesize O mixDiv nint fra r).Carries InStep InStep r.state :=
  carries_andThen (masked_carries _ _) fun _ _ => carries_andThen (masked_carries _ _) fun _ _ =>
  carries_andThen (masked_carries _ _) fun _ _ => carries_andThen (masked_carries _ _) fun _ _ =>
  carries_andThen (getPllLock_carries _ _) fun _ _ => carries_andThen (masked_carries _ _) fun _ _ => carries_return

theorem parameters_carries (freq : Int) (mixDiv : Rat) (r : Run) :
    (directParameters O freq mixDiv r).Carries InStep InStep r.state := by
  unfold directParameters
  simp only
  split
  · exact carries_return
  · split
    · exact when_fault
    · exact synthesize_carries ..

theorem setPll_carries (freq : Int) (r : Run) : (directSetPll O freq r).Carries InStep InStep r.state := by
  refine when_tuner ?_
  split
  · exact carries_andThen (maskedAll_carries _ _) fun _ _ => carries_andThen (readRegBuffer_carries ..) fun _ _ =>
      carries_andThen (masked_carries _ _) fun _ _ => parameters_carries ..
  · exact when_fault

theorem setMux_carries (freq : Int) (r : Run) : (directSetMux O freq r).Carries InStep InStep r.state := by
  refine when_tuner ?_
  split
  · exact when_fault
  · split
    · exact when_fault
    · exact maskedAll_carries _ _

theorem setFrequency_carries (freq : Int) (r : Run) : (directSetFrequency O freq r).Carries InStep InStep r.state := by
  refine when_tuner ?_
  split
  · exact carries_andThen (setMux_carries ..) fun _ _ => setPll_carries ..
  · exact when_fault

theorem calibrationPass_carries (r : Run) : (directCalibrationPass O r).Carries InStep InStep r.state := by
  refine carries_andThen (maskedAll_carries _ _) fun _ _ => carries_andThen (setPll_carries ..) fun _ _ => ?_
  split
  · exact carries_andThen (maskedAll_carries _ _) fun _ _ => carries_andThen (readRegBuffer_carries ..) fun _ _ =>
      carries_return
  · exact when_error

theorem calibrateFilter_carries (first : Bool) (r : Run) :
    (directCalibrateFilter O first r).Carries InStep InStep r.state := by
  refine when_tuner (carries_andThen (calibrationPass_carries _) fun _ _ => ?_)
  split
  · exact calibrationPass_carries _
  · exact carries_return

theorem initElectronics_carries (r : Run) : (directInitElectronics O r).Carries InStep InStep r.state :=
  when_tuner <| carries_andThen (maskedAll_carries _ _) fun _ _ =>
    carries_andThen (calibrateFilter_carries _ _) fun _ _ => maskedAll_carries _ _

theorem tunerClose_carries (r : Run) : (directTunerClose O r).Carries InStep InStep r.state :=
  when_tuner (maskedAll_carries _ _)

theorem setAutoGain_carries (r : Run) : (directSetAutoGain O r).Carries InStep InStep r.state :=
  when_tuner (maskedAll_carries _ _)

theorem setManualGain_carries (g : Rat) (r : Run) : (directSetManualGain O g r).Carries InStep InStep r.state :=
  when_tuner <| carries_andThen (maskedAll_carries _ _) fun _ _ => maskedAll_carries _ _

theorem setGainInner_carries (g : Option Rat) (r : Run) : (directSetGainInner O g r).Carries InStep InStep r.state := by
  cases g with
  | none => exact setAutoGain_carries _
  | some q => exact setManualGain_carries ..

/-! ### The image of `init` -/

/-- Each write of the image brings one more register in step (R86). -/
theorem image_carries (is : List (Fin 27)) : ∀ r : Run,
    (directImage O is r).Carries (InStepBut is) InStep r.state := by
  induction is with
  | nil => exact fun r => when_ok ((Leads.of_same rfl rfl rfl rfl).mono (fun _ _ h => h) fun _ _ => inStepBut_nil)
  | cons i is ih =>
    refine fun r => carries_andThen (when_mono (writeI2CReg_prims ..) fun _ _ h => ?_) fun _ r1 => ih r1
    refine leads_write (shadowIndex_eq_some.2 rfl) h fun d bank ⟨hsel, hbut⟩ => ⟨hsel, rfl, fun j hj => ?_⟩
    by_cases hij : i = j
    · simp [hij]
    · have hne : (i : Nat) ≠ j := fun h => hij (Fin.ext h)
      simpa [Vector.getElem_set_ne, hne] using hbut j (by simp [hj, Ne.symm hij])

theorem tunerInit_carries (r : Run) : (directTunerInit O r).Carries Idle InStep r.state := by
  refine when_tuner ?_
  split
  · exact carries_andThen (when_mono (image_carries _ _) fun _ _ h => h.mono (fun _ _ => inStepBut_all) fun _ _ k => k)
      fun _ _ => initElectronics_carries _
  · exact when_fault

end Carrying

/-! ### The external commands -/

/-- At a crystal frequency, the IF multiplier is written with demodulator records only (R113, R115). -/
def IfByDemod (c : Config) (x : Rat) : Prop := allDemod (evalBatch c.ifWrites (ifMultiplier x)) = true

section Controller

variable {α β : Type} {O : Transport} {P : Beside} {s t : State}

theorem openI2C_carries (r : Run) : (directOpenI2C O r).Carries P P r.state :=
  carries_andThen (when_mono (writeDemodReg_sends ..) fun _ _ h => h.leads) fun _ _ => carries_return

theorem closeI2C_carries (r : Run) : (directCloseI2C O r).Carries P P r.state :=
  carries_andThen (when_mono (writeDemodReg_sends ..) fun _ _ h => h.leads) fun _ _ => carries_return

theorem SameButTrace.xtalFreq (h : SameButTrace s t) : t.xtalFreq = s.xtalFreq := by rw [h]

theorem openI2C_xtalFreq (r : Run) : (directOpenI2C O r).When fun _ r1 => r1.state.xtalFreq = r.state.xtalFreq :=
  when_andThen (writeDemodReg_frame ..) fun _ _ h => when_ok h.xtalFreq

theorem claim_carries (r : Run) : (directClaim O r).Carries Unrelated Unrelated r.state :=
  carries_andThen (when_mono (ask_sends (A := AnyPrimitive) trivial r) fun _ _ h => h.leads_unrelated)
    fun _ _ => carries_return

/-- The interface is no register of the tuner. -/
theorem release_carries (r : Run) : (directRelease O r).Carries P P r.state :=
  carries_andThen (when_mono (ask_sends (A := Away) (fun _ _ => rfl) r) fun _ _ h => h.leads) fun _ _ => carries_return

theorem writeEach_carries (cs : List WriteCommand) (r : Run) :
    (directWriteEach O cs r).Carries Unrelated Unrelated r.state :=
  when_mono (writeEach_sends_any cs r) fun _ _ h => h.leads_unrelated

/-- A batch leaves the tuner as it was, if all its records are demodulator writes. -/
theorem writeEach_carries_guarded (cs : List WriteCommand) (r : Run) :
    (directWriteEach O cs r).Carries P (Given (allDemod cs = true) P) r.state := by
  by_cases h : allDemod cs = true
  · exact when_mono (writeEach_sends_away h r) fun _ _ k => k.leads.mono (fun _ _ h => h) fun _ _ hP _ => hP
  · exact when_mono (writeEach_carries cs r) fun _ _ k => k.mono (fun _ _ _ => trivial) fun _ _ _ hA => absurd hA h

theorem carries_guard (A : Prop) {Q : Beside} {x : Result α} (hx : x.Carries P Q s) :
    x.Carries (Given A P) (Given A Q) s := when_mono hx fun _ _ h => h.guard A

/-- From the probe on, `open` brings the tuner in step where the IF batch leaves it alone (R113). -/
theorem bringUp_carries (r : Run) : (directBringUp O r).Carries Idle
    (Given (IfByDemod r.state.cfg (crystal r.state)) InStep) r.state :=
  carries_andThen (carries_begin (writeEach_carries_guarded ..)) fun _ _ =>
  carries_andThen (carries_guard _ (tunerInit_carries _)) fun _ _ =>
  carries_andThen (carries_guard _ (setGainInner_carries ..)) fun _ _ =>
  carries_andThen (closeI2C_carries _) fun _ _ => carries_return

/-- The probe of `open` leaves the tuner idle whatever the batches before it did, and `init` brings it in step. -/
theorem open_carries (r : Run) : (directOpen O r).Carries Unrelated
    (Given (IfByDemod r.state.cfg (correctedCrystal r.state.ppm)) InStep) r.state := by
  refine when_session <| when_andThen (writeEach_carries ..) fun _ r1 h1 =>
    when_andThen (claim_carries _) fun _ r2 h2 => when_andThen (writeEach_carries ..) fun _ r3 h3 => ?_
  have h : Leads Unrelated Unrelated r.state r3.state := (h1.trans h2).trans h3
  refine when_andThen (when_and (openI2C_carries (P := Unrelated) _) (openI2C_xtalFreq _)) fun _ r4 ⟨h4, hx4⟩ =>
    when_andThen (when_and (check_carries_idle _) (check_frame _)) fun found r5 ⟨h5, hf5⟩ => ?_
  have hset : Leads Unrelated Unrelated r3.state r4.state := h4.from_same
  have h' : Leads Unrelated Idle r.state r5.state := (h.trans hset).trans h5
  have hx : crystal r5.state = correctedCrystal r.state.ppm := by
    rw [crystal, hf5, hx4, ← h.ppm]
    rfl
  split
  · refine when_mono (bringUp_carries r5) fun _ _ k => ?_
    rw [hx, h'.cfg] at k
    exact h'.trans k
  · exact when_error

theorem setGain_carries (g : Option Rat) (r : Run) : (directSetGain O g r).Carries InStep InStep r.state :=
  when_session <| carries_andThen (openI2C_carries _) fun _ _ => carries_andThen (setGainInner_carries ..) fun _ _ =>
    closeI2C_carries _

theorem setCenterFrequency_carries (freq : Int) (r : Run) :
    (directSetCenterFrequency O freq r).Carries InStep InStep r.state := by
  refine when_session ?_
  split
  · exact when_fault
  · exact carries_andThen (openI2C_carries _) fun _ _ => carries_andThen (setFrequency_carries ..) fun _ _ =>
      carries_andThen (closeI2C_carries _) fun _ _ => carries_return

theorem close_carries (r : Run) : (directClose O r).Carries InStep InStep r.state :=
  when_session <| carries_andThen (openI2C_carries _) fun _ _ => carries_andThen (tunerClose_carries _) fun _ _ =>
    carries_andThen (closeI2C_carries _) fun _ _ => carries_andThen (release_carries _) fun _ _ => carries_return

theorem setSampleRate_carries (rate : Int) (r : Run) :
    (directSetSampleRate O rate r).Carries Unrelated Unrelated r.state := by
  refine when_session ?_
  split
  · exact when_fault
  split
  · exact when_fault
  · exact carries_andThen (writeEach_carries ..) fun _ _ => carries_andThen (writeEach_carries ..) fun _ _ =>
      carries_andThen (writeEach_carries ..) fun _ _ => carries_return

theorem resetBuffer_carries (r : Run) : (directResetBuffer O r).Carries Unrelated Unrelated r.state :=
  when_session <| carries_andThen (writeEach_carries ..) fun _ _ => carries_return

theorem readSamples_sends (n : Int) (r : Run) :
    (directReadSamples O n r).When fun _ r1 => Sends AnyPrimitive r.state r1.state := by
  refine when_session ?_
  split
  · exact when_fault
  split
  · exact readBulk_sends ..
  · exact when_fault

/-! ### Commands -/

/-- The record of primitives has grown. -/
def Grows (s t : State) : Prop := ∃ ps, t.trace = s.trace ++ ps

variable {A : Primitive → Prop} {Q : Beside} {x : Result α} {w : α → β}

theorem sends_grows (hx : x.When fun _ r => Sends A s r.state) : (x.map w).When fun _ r => Grows s r.state :=
  when_andThen hx fun _ _ ⟨ps, _, h⟩ => when_ok ⟨ps, by rw [h]⟩

theorem prims_grows {ps : List Primitive} (hx : x.When fun _ r => r.state = { s with trace := s.trace ++ ps }) :
    (x.map w).When fun _ r => Grows s r.state :=
  sends_grows (when_mono hx fun _ _ h => .of_prims h)

theorem carries_grows (hx : x.Carries P Q s) : (x.map w).When fun _ r => Grows s r.state :=
  when_andThen hx fun _ _ ⟨_, _, ps, h, _⟩ => when_ok ⟨ps, h⟩

/-- Every command keeps the record of the primitives issued before it. -/
theorem direct_grows (O : Transport) (i : Instr) (r : Run) :
    (direct O i r).When fun _ r1 => Grows r.state r1.state := by
  cases i with
  | writeReg b a v w => exact sends_grows (writeReg_sends ..)
  | readReg b a w => exact sends_grows (readReg_sends ..)
  | writeRegMask b a v m => exact sends_grows (writeRegMask_sends ..)
  | writeDemodReg p a v w => exact sends_grows (writeDemodReg_sends ..)
  | readDemodReg p a => exact sends_grows (readDemodReg_sends ..)
  | openI2C => exact carries_grows (openI2C_carries (P := Unrelated) _)
  | closeI2C => exact carries_grows (closeI2C_carries (P := Unrelated) _)
  | readI2CReg d a => exact prims_grows (readI2CReg_prims ..)
  | writeI2CReg d a v => exact prims_grows (writeI2CReg_prims ..)
  | readI2CRegBuffer d a n => exact prims_grows (readI2CRegBuffer_prims ..)
  | writeI2CRegBuffer d a bs => exact prims_grows (writeI2CRegBuffer_prims ..)
  | writeEach cs => exact sends_grows (writeEach_sends_any ..)
  | claimInterface => exact carries_grows (claim_carries _)
  | releaseInterface => exact carries_grows (release_carries (P := Unrelated) _)
  | readBulk n => exact sends_grows (readBulk_sends ..)
  | tunerCheck => exact carries_grows (check_carries _)
  | tunerInit => exact carries_grows (tunerInit_carries _)
  | tunerInitElectronics => exact carries_grows (initElectronics_carries _)
  | tunerSetFrequency f => exact carries_grows (setFrequency_carries ..)
  | tunerSetMux f => exact carries_grows (setMux_carries ..)
  | tunerSetPll f => exact carries_grows (setPll_carries ..)
  | tunerGetPllLock b => exact carries_grows (getPllLock_carries ..)
  | tunerCalibrateFilter b => exact carries_grows (calibrateFilter_carries ..)
  | tunerSetAutoGain => exact carries_grows (setAutoGain_carries _)
  | tunerSetManualGain g => exact carries_grows (setManualGain_carries ..)
  | tunerReadRegBuffer a n => exact carries_grows (readRegBuffer_carries ..)
  | tunerWriteRegMask a v m => exact carries_grows (masked_carries ..)
  | tunerClose => exact carries_grows (tunerClose_carries _)
  | controllerOpen => exact carries_grows (open_carries _)
  | setSampleRate f => exact carries_grows (setSampleRate_carries ..)
  | setCenterFrequency f => exact carries_grows (setCenterFrequency_carries ..)
  | setGain g => exact carries_grows (setGain_carries ..)
  | resetBuffer => exact carries_grows (resetBuffer_carries _)
  | readSamples n => exact sends_grows (readSamples_sends ..)
  | controllerClose => exact carries_grows (close_carries _)
  | wcReg b a v w => exact sends_grows (record_sends ..)
  | wcRegMask b a v m => exact sends_grows (record_sends ..)
  | wcDemodReg p a v w => exact sends_grows (record_sends ..)
  | wcI2CReg d a v => exact sends_grows (record_sends ..)

/-- The tuner operations, the retune, the gain commands and `close` keep the shadow bank and the tuner in step. -/
theorem direct_carries {i : Instr} {f : Int} {g : Rat} {b : Bool} {a n m : Int}
    (hi : i ∈ ([.tunerCheck, .tunerInitElectronics, .tunerSetFrequency f, .tunerSetMux f, .tunerSetPll f,
      .tunerGetPllLock b, .tunerCalibrateFilter b, .tunerSetAutoGain, .tunerSetManualGain g, .tunerReadRegBuffer a n,
      .tunerWriteRegMask a n m, .tunerClose, .setCenterFrequency f, .setGain (some g), .setGain none,
      .controllerClose] : List Instr)) (r : Run) : (direct O i r).Carries InStep InStep r.state := by
  simp only [List.mem_cons, List.not_mem_nil, or_false] at hi
  rcases hi with rfl | rfl | rfl | rfl | rfl | rfl | rfl | rfl | rfl | rfl | rfl | rfl | rfl | rfl | rfl | rfl
  · exact carries_map (check_carries _)
  · exact carries_map (initElectronics_carries _)
  · exact carries_map (setFrequency_carries ..)
  · exact carries_map (setMux_carries ..)
  · exact carries_map (setPll_carries ..)
  · exact carries_map (getPllLock_carries ..)
  · exact carries_map (calibrateFilter_carries ..)
  · exact carries_map (setAutoGain_carries _)
  · exact carries_map (setManualGain_carries ..)
  · exact carries_map (readRegBuffer_carries ..)
  · exact carries_map (masked_carries ..)
  · exact carries_map (tunerClose_carries _)
  · exact carries_map (setCenterFrequency_carries ..)
  · exact carries_map (setGain_carries ..)
  · exact carries_map (setGain_carries ..)
  · exact carries_map (close_carries _)

end Controller

/-! ### Reading the tuner back -/

section ReadBack

variable {c : Config} {d : Tuner} {s : State}

/-- Byte `j` of a read that starts at register `a` is that of register `a + j` (R38). -/
theorem Tuner.getElem?_readBack (d : Tuner) (bs : List Byte) (a j : Nat) :
    (d.readBack a bs)[j]? = bs[j]?.map (d.byteAt (a + j)).getD := by
  induction bs generalizing a j with
  | nil => rfl
  | cons b bs ih =>
    cases j with
    | zero => rfl
    | succ j =>
      simp only [Tuner.readBack, List.getElem?_cons_succ, ih]
      congr 3
      omega

/-- A read whose answers are the tuner's gives, for each register known, the byte last written there (R38). -/
theorem getElem?_of_replies {a : Int} {n : Nat} {x raw : List Byte} (hsel : d.selected = none)
    (ha : inRange 0 0xFF a = true) (h : d.Replies c (i2cReadPrims c TUNER_I2C_ADDR a n) [.ok x, .ok raw]) (j : Nat) :
    raw[j]? = raw[j]?.map (d.byteAt (a.toNat + j)).getD := by
  obtain ⟨-, hread, -⟩ := h
  have hreg : (byteOf a).toNat = a.toNat := by
    simp only [inRange, Bool.and_eq_true, decide_eq_true_eq] at ha
    have := byteOf_toNat ha.1 ha.2
    omega
  rw [Tuner.take_i2cWrite, Tuner.receive_index hsel] at hread
  simp only [Tuner.reply, i2cRead, and_self, if_true, hreg, Answer.ok.injEq] at hread
  have hj := Tuner.getElem?_readBack { d with selected := some (byteOf a) } raw a.toNat j
  rwa [hread] at hj

/-- A transport that gives a list of answers. -/
def scripted (as : List Answer) : Transport := fun k _ => as.getD k (.fail 0)

/-- A command completes as its direct style does under the transport that gives its answers. -/
theorem completes_of_direct {O : Transport} {i : Instr} {v : Value} {r : Run} (ha : Accepts i s)
    (h : direct O i (Run.start s) = .ok v r) : Completes i s r.answers v r.state := by
  intro rest
  have hf := machineFollowsDirectStyle O i s ha rest
  simp only [h, Result.answers, Result.outcome] at hf
  rcases hf with hnow | hlater
  · exact ⟨_, 0, hnow, rfl⟩
  · exact hlater

/-- A read of a buffer from an I2C device completes with the bytes the transport gives (R73). -/
theorem readI2CRegBuffer_completes {dev a n : Int} {x raw : List Byte} (hs : ReadyInternal s) (ho : s.i2cOpen = true)
    (hd : isByte dev = true) (ha : isByte a = true) (hn : 1 ≤ n) (hlen : raw.length = n.toNat) :
    Completes (.readI2CRegBuffer dev a n) s [.ok x, .ok raw] (.bytes raw)
      { s with trace := s.trace ++ i2cReadPrims s.cfg dev a n.toNat } := by
  have hdirect : direct (scripted [.ok x, .ok raw]) (.readI2CRegBuffer dev a n) (Run.start s) = .ok (.bytes raw)
      ⟨{ s with trace := s.trace ++ i2cReadPrims s.cfg dev a n.toNat }, [.ok x, .ok raw]⟩ := by
    simp [direct, directReadI2CRegBuffer, directI2CRead, hd, ha, ho, hn, Run.start, ask, scripted, i2cWrite, i2cRead,
      primitiveResult, hlen, Result.andThen, Result.map, Run.asked, Value.asBytes, i2cReadPrims]
  have hcompletes := completes_of_direct (i := .readI2CRegBuffer dev a n) hs hdirect
  exact hcompletes

end ReadBack

/-! ### The statement -/

section Statement

variable {P Q : Beside} {s t : State} {d : Tuner}

theorem Leads.after {ps : List Primitive} (h : Leads P Q s t) (hps : t.trace = s.trace ++ ps) (hd : P d s.shadow) :
    Q (d.after s.cfg ps) t.shadow := by
  obtain ⟨-, -, qs, hqs, hQ⟩ := h
  obtain rfl : ps = qs := List.append_cancel_left (hps.symm.trans hqs)
  exact hQ d hd

/-- No admissible batch holds a record that writes the tuner past its shadow bank (R85). -/
theorem not_mem_of_okBatch {cs : List WriteCommand} (h : okBatch cs = true) (a v : Int) :
    WriteCommand.i2cReg 0x34 a v ∉ cs := fun hmem => by
  have := List.all_eq_true.1 h _ hmem
  cases this

end Statement

/-- Settles O14: each operation's transfers lead the tuner on beside the shadow bank; a configuration's batches hold no
raw tuner write; and a tuner that answers from its registers answers with the shadow cells. -/
theorem shadowMirrorsTuner : Obligations.ShadowMirrorsTuner := by
  refine ⟨?commands, ?batches, ?reads⟩
  case commands =>
    intro O i s v r d hd _
    obtain ⟨ps, hps⟩ := (direct_grows O i _).of_ok hd
    refine ⟨ps, hps, fun f g b a x m hi hM => ?_, fun hi hsel => ?_, fun hi hdemod => ?_⟩
    · exact (mirrors_iff _ _).2 (((direct_carries hi _).of_ok hd).after hps ((mirrors_iff _ _).1 hM))
    · subst hi
      exact (mirrors_iff _ _).2 (((carries_map (tunerInit_carries _)).of_ok hd).after hps hsel)
    · subst hi
      exact (mirrors_iff _ _).2 (((carries_map (open_carries _)).of_ok hd).after hps trivial hdemod)
  case batches =>
    intro c x a v hc
    simp only [Config.wellFormed, okBatches, Bool.and_eq_true] at hc
    obtain ⟨-, ⟨⟨⟨⟨⟨husb, hdemod⟩, hreset⟩, hepa⟩, hif⟩, hratio⟩, hppm⟩ := hc
    simp only [List.forall_mem_cons]
    exact ⟨not_mem_of_okBatch husb a v, not_mem_of_okBatch hdemod a v, not_mem_of_okBatch hreset a v,
      not_mem_of_okBatch hepa a v, not_mem_of_okBatch (okBatch_evalBatch _ x hif) a v,
      not_mem_of_okBatch (okBatch_evalBatch _ x hratio) a v, not_mem_of_okBatch (okBatch_evalBatch _ x hppm) a v, nofun⟩
  case reads =>
    intro s d a n x raw hs ho hM ha hn hlen hrep
    refine ⟨readI2CRegBuffer_completes hs ho rfl ha hn hlen, fun j i b hj hi hb => ?_, ?_⟩
    · have hj' : j < raw.length := hlen ▸ hj
      have hreg : ((a.toNat + j : Nat) : Int) = a + j := by
        simp only [inRange, Bool.and_eq_true, decide_eq_true_eq] at ha
        omega
      have hbyte : d.byteAt (a.toNat + j) = some b := by
        rw [Tuner.byteAt, hreg, hi]
        exact hM.2 ▸ hb
      rw [getElem?_of_replies hM.1 ha hrep j, hbyte, List.getElem?_eq_getElem hj']
      rfl
    · rwa [show (0x34 : Int) = TUNER_I2C_ADDR from rfl, Tuner.after_read hM.1]

end Sys2Proof.Machine
end

section
/-! SUPPORT. How the session moves in a step, and the proof that it moves only along its arcs (R19, R148). -/

namespace Sys2Proof.Machine

/-- The session is where it was, or one arc on (R19). -/
def ArcOrSame (w w' : Session) : Prop := w' = w ∨ sessionArc w w' = true

theorem sessionArc_failed {w : Session} (h : sessionLive w = true) : sessionArc w .failed = true := by
  cases w with
  | idle => rfl
  | opened => rfl
  | closed => cases h
  | failed => cases h

section Runs

variable {s t u : State} {f : Frame} {fs : List Frame}

/-- A primitive leaves the session, or its error makes a live session FAILED (R134). -/
theorem transact_arc (p : Primitive) (h : sessionLive s.session = true) :
    ArcOrSame s.session (transact p s).session := by
  rcases transact_cases p s with ⟨v, ht⟩ | ⟨e, ht⟩ <;> rw [ht]
  · exact .inl rfl
  · rw [errorEntry_session]
    split
    · exact .inl rfl
    · exact .inr (sessionArc_failed h)

/-- What an operation returns moves the session from the one it has checked: `open` to OPEN, `close` to CLOSED. -/
theorem ret_arc {v : Value} (h : Sound s) (hf : s.frames = f :: fs)
    (hw : (Act.ret v u).Within f { s with frames := fs }) : ArcOrSame s.session u.session := by
  obtain ⟨hsession, -⟩ := hw
  have hchecked := h.checked f (hf ▸ List.mem_cons_self)
  rcases hsession with hsame | ⟨hidle, hu⟩ | ⟨hopened, hu⟩
  · exact .inl hsame
  · rw [hchecked _ hidle, hu]
    exact .inr rfl
  · rw [hchecked _ hopened, hu]
    exact .inr rfl

/-- An operation that another has called leaves the session: only an external command moves it. -/
theorem ret_session {v : Value} {g : Frame} (h : Sound s) (hf : s.frames = f :: g :: fs)
    (hw : (Act.ret v u).Within f { s with frames := g :: fs }) : u.session = s.session := by
  obtain ⟨hsession, -⟩ := hw
  have hctl : f.isController = false := not_isController_of_awaits (stackOk_cons_cons.1 (hf ▸ h.stack)).1
  have hno : ∀ w, f.checkedSession ≠ some w := fun w hfw => by
    rw [isController_of_checkedSession hfw] at hctl
    cases hctl
  rcases hsession with hsame | ⟨hidle, -⟩ | ⟨hopened, -⟩
  · exact hsame
  · exact absurd hidle (hno _)
  · exact absurd hopened (hno _)

/-- A run of statements that goes on leaves the session; one that ends the step moves it along an arc at most. -/
theorem micro_arc (h : Sound s) (hl : Live s ∨ AtCheck s) :
    (micro s = .more t → t.session = s.session) ∧ (micro s = .done t → ArcOrSame s.session t.session) := by
  unfold micro
  split
  · exact ⟨nofun, fun hm => by cases hm; exact .inl rfl⟩
  · rename_i f fs hf
    have hk := resume_kept f s.latch { s with frames := fs }
    have hw := resume_within f s.latch { s with frames := fs }
    generalize resume f s.latch { s with frames := fs } = a at hk hw ⊢
    cases a with
    | prim p k u =>
      obtain ⟨-, hsession, -, -, -, -, -, -, -, -, hctl⟩ := hw
      have hlive := sessionLive_of_frames hf hl fun hc => by rw [hctl] at hc; cases hc
      have harc := transact_arc (s := { u with frames := k :: u.frames }) p (hsession ▸ hlive)
      exact ⟨nofun, fun hm => by cases hm; exact hsession ▸ harc⟩
    | call op k u =>
      obtain ⟨-, -, hsession, -⟩ := hw
      exact ⟨fun hm => by cases hm; exact hsession, nofun⟩
    | ret v u =>
      simp only [Act.move, returnValue]
      split
      · have harc := ret_arc h hf hw
        exact ⟨nofun, fun hm => by cases hm; exact harc⟩
      · rename_i g gs hu
        have hfs : fs = g :: gs := hk.frames.symm.trans hu
        subst hfs
        have hsame := ret_session h hf hw
        exact ⟨fun hm => by cases hm; exact hsame, nofun⟩
    | raise e u =>
      obtain ⟨hbulk, hsession, -, -, hcheck⟩ := hw
      have hlive := sessionLive_of_frames hf hl fun hc => .inr (hcheck hc)
      refine ⟨nofun, fun hm => ?_⟩
      cases hm
      rw [errorEntry_session, hbulk]
      exact .inr (sessionArc_failed hlive)
    | fault x => exact ⟨nofun, nofun⟩

/-- The runs of statements of a step move the session once at most: as the step ends. -/
theorem runMoves_arc {n : Nat} (h : Sound s) (hl : Live s ∨ AtCheck s) (hr : runMoves n s = .next t) :
    ArcOrSame s.session t.session := by
  induction n generalizing s with
  | zero => cases hr; exact .inl rfl
  | succ n ih =>
    simp only [runMoves] at hr
    split at hr
    · rename_i u hu
      obtain ⟨hsound, hlive⟩ := (inv_iff u).1 (micro_inv h hl (.inl hu))
      exact (micro_arc h hl).1 hu ▸ ih hsound (.inl hlive) hr
    · rename_i u hu; cases hr; exact (micro_arc h hl).2 hu
    · cases hr

/-- An external command faults at its session check where the session accepts no command (R112, R148). -/
theorem micro_fault_of_not_live (h : AtCheck s) (hl : sessionLive s.session = false) : ∃ x, micro s = .fault x := by
  obtain ⟨op, hop, hctl⟩ := h
  have hw := resume_within (.enter op) s.latch { s with frames := [] }
  unfold micro
  simp only [hop]
  generalize resume (.enter op) s.latch { s with frames := [] } = a at hw ⊢
  cases a with
  | prim p k u =>
    obtain ⟨-, -, -, -, -, -, -, -, -, -, hnot⟩ := hw
    rw [hctl] at hnot; cases hnot
  | call op' k u =>
    obtain ⟨-, -, hsession, -, -, -, hcheck⟩ := hw
    rcases hcheck hctl with hlive | ⟨w, hw⟩
    · rw [hsession, hl] at hlive; cases hlive
    · cases hw
  | ret v u =>
    obtain ⟨-, -, -, -, hcheck⟩ := hw
    obtain ⟨w, hw⟩ := hcheck hctl
    cases hw
  | raise e u =>
    obtain ⟨-, -, -, -, hcheck⟩ := hw
    obtain ⟨w, hw⟩ := hcheck hctl
    cases hw
  | fault x => exact ⟨x, rfl⟩

end Runs

theorem Starts.session {s u : State} (h : Starts s u) : u.session = s.session := by
  cases h with
  | resume hf e => rw [e]
  | record op c cs fs ho hf e => rw [e]
  | internal r rest op i hf hc hd hx hl e => rw [e]
  | external r rest op i hf hc hd hi hx hq e => rw [e]

/-- In a terminal session no command is in progress, so a step could only start an external one. -/
theorem Starts.atCheck {s u : State} (hs : Live s) (h : Starts s u) (hl : sessionLive s.session = false) :
    AtCheck u := by
  have hidle : s.frames = [] := hs.resolve_right (by simp [hl])
  cases h with
  | resume hf e => exact absurd hidle hf
  | record op c cs fs ho hf e => rw [hidle] at hf; cases hf
  | internal r rest op i hf hc hd hx hlive e => rw [hl] at hlive; cases hlive
  | external r rest op i hf hc hd hi hx hq e => subst e; exact ⟨op, rfl, hq⟩

/-- A step from a terminal session runs no statement (R148). -/
theorem not_next_of_not_live {s u t : State} (hs : Live s) (h : Starts s u) (hl : sessionLive s.session = false) :
    runMoves MOVE_BOUND u ≠ .next t := by
  intro hr
  obtain ⟨x, hx⟩ := micro_fault_of_not_live (h.atCheck hs hl) (h.session ▸ hl)
  simp only [MOVE_BOUND, runMoves, hx] at hr
  cases hr

/-- Settles O10: only the run of statements that ends a step moves the session, and in a terminal session none runs. -/
theorem sessionArcs : Obligations.SessionArcs := by
  intro s t h hstep
  obtain ⟨hsound, hlive⟩ := (inv_iff s).1 h
  obtain ⟨-, ⟨rfl, -⟩ | ⟨u, hu, hrun⟩⟩ := step_starts hsound.settled hstep
  · exact ⟨.inl rfl, fun _ => rfl⟩
  · obtain ⟨hsound', hlive'⟩ := hu.sound h
    refine ⟨hu.session ▸ runMoves_arc hsound' hlive' hrun, fun hterm => ?_⟩
    have hl : sessionLive s.session = false := by rcases hterm with hc | hc <;> rw [hc] <;> rfl
    exact absurd hrun (not_next_of_not_live hlive hu hl)

end Sys2Proof.Machine
end

section
/-! SUPPORT. What the statements of an operation do to the shadow bank (R20), and the proof that no cell returns to
`undef`. -/

namespace Sys2Proof.Machine

/-- Every shadow cell that holds a byte in `s` holds one in `t` (R20). -/
def KeepsBytes (s t : State) : Prop := ∀ i : Fin 27, s.shadow[i].isSome = true → t.shadow[i].isSome = true

theorem KeepsBytes.of_eq {s t : State} (h : t.shadow = s.shadow) : KeepsBytes s t := fun i hi => by rwa [h]

theorem KeepsBytes.trans {s t u : State} (h : KeepsBytes s t) (k : KeepsBytes t u) : KeepsBytes s u :=
  fun i hi => k i (h i hi)

/-- A cell that is written holds a byte. -/
theorem setShadow_keepsBytes (s : State) (i : Fin 27) (b : Byte) : KeepsBytes s (setShadow s i b) := by
  intro j hj
  by_cases hij : i = j
  · simp [hij]
  · have hne : (i : Nat) ≠ j := fun h => hij (Fin.ext h)
    simpa [Vector.getElem_set_ne, hne] using hj

section Statements

variable {s : State}

theorem requireTuner_keepsBytes {a : Act} (h : a.All (KeepsBytes s)) : (requireTuner s a).All (KeepsBytes s) := by
  unfold requireTuner
  split
  · exact h
  · trivial

/-- `init` sets the cell of each image byte. -/
theorem loopTunerInit_keepsBytes (i : Nat) (s : State) : (loopTunerInit i s).All (KeepsBytes s) := by
  unfold loopTunerInit
  split
  · exact setShadow_keepsBytes _ _ _
  · exact .of_eq rfl

/-- A masked write sets its cell. -/
theorem enterTunerWriteRegMask_keepsBytes (a v m : Int) (s : State) :
    (enterTunerWriteRegMask a v m s).All (KeepsBytes s) := by
  refine requireTuner_keepsBytes ?_
  split
  · trivial
  split
  · split
    · trivial
    split
    · exact setShadow_keepsBytes _ _ _
    · trivial
  · trivial

theorem stopUnknown_keepsBytes (c : WriteCommand) (s : State) : (stopUnknown c s).All (KeepsBytes s) := by
  rcases stopUnknown_cases c s with h | h <;> rw [h]
  · trivial
  · exact .of_eq rfl

/-- Only the masked write and `init` write the bank, and they write bytes. -/
theorem enterOp_keepsBytes (op : Op) (s : State) : (enterOp op s).All (KeepsBytes s) := by
  have hs : KeepsBytes s s := .of_eq rfl
  cases op with
  | tunerWriteRegMask a v m => exact enterTunerWriteRegMask_keepsBytes a v m s
  | tunerInit =>
    refine requireTuner_keepsBytes ?_
    split
    · exact loopTunerInit_keepsBytes 0 s
    · trivial
  | _ =>
    simp only [enterOp, enterWriteReg, enterReadReg, enterWriteRegMask, enterWriteDemodReg, enterReadDemodReg,
      enterReadI2CReg, enterWriteI2CReg, enterReadI2CRegBuffer, enterWriteI2CRegBuffer, loopWriteEach, enterReadBulk,
      enterSetFrequency, enterSetMux, enterSetPll, enterGetPllLock, enterTunerReadRegBuffer, enterTunerClose,
      enterSetAutoGain, enterSetManualGain, enterInitElectronics, enterCalibrateFilter, enterOpen, enterSetGain,
      enterSetSampleRate, enterSetCenterFrequency, enterSetGainInner, enterResetBuffer, enterReadSamples, enterClose,
      requireTuner, requireSession, loopTunerBatch, loopSetMux, loopTunerClose]
    repeat' split
    all_goals first | exact hs | trivial | exact Stop.act_all _ _ hs _ | exact stopUnknown_keepsBytes _ _

/-- The statements after a wait write the bank only in the image loop of `init`. -/
theorem resume_keepsBytes (f : Frame) (v : Value) (s : State) : (resume f v s).All (KeepsBytes s) := by
  have hs : KeepsBytes s s := .of_eq rfl
  cases f with
  | enter op => exact enterOp_keepsBytes op s
  | tunerInitNext i => exact loopTunerInit_keepsBytes i s
  | _ =>
    simp only [resume, returnDecoded, loopWriteEach, loopSetMux, loopTunerBatch, loopTunerClose, afterSetPllDivider,
      afterGetPllLockRead, afterCalibrateSynth, afterCalibrateStatus, afterOpenProbed]
    repeat' split
    all_goals first | exact hs | trivial | exact Stop.act_all _ _ hs _ | exact stopUnknown_keepsBytes _ _

end Statements

/-! ### Along a step -/

theorem transact_keepsBytes (p : Primitive) (s : State) : KeepsBytes s (transact p s) := by
  rcases transact_cases p s with ⟨v, ht⟩ | ⟨e, ht⟩ <;> rw [ht] <;> exact .of_eq rfl

/-- What follows a run of statements, the end of the step or the next frame, leaves the bank to it. -/
theorem move_keepsBytes {s t : State} {a : Act} (h : a.All (KeepsBytes s))
    (hm : a.move = .more t ∨ a.move = .done t) : KeepsBytes s t := by
  cases a with
  | prim p k u =>
    have ht : transact p { u with frames := k :: u.frames } = t := by simpa [Act.move] using hm
    have hp := transact_keepsBytes p { u with frames := k :: u.frames }
    exact ht ▸ h.trans hp
  | call op k u =>
    have ht : { u with frames := .enter op :: k :: u.frames, latch := .unit } = t := by simpa [Act.move] using hm
    exact ht ▸ h
  | ret v u =>
    simp only [Act.move, returnValue] at hm
    split at hm
    · have ht : respond v u = t := by simpa using hm
      exact ht ▸ h
    · have ht : { u with latch := v } = t := by simpa using hm
      exact ht ▸ h
  | raise e u =>
    have ht : errorEntry e u = t := by simpa [Act.move] using hm
    exact ht ▸ h
  | fault x => simp [Act.move] at hm

theorem micro_keepsBytes {s t : State} (h : micro s = .more t ∨ micro s = .done t) : KeepsBytes s t := by
  unfold micro at h
  split at h
  · obtain rfl : s = t := by simpa using h
    exact .of_eq rfl
  · rename_i f fs hf
    exact move_keepsBytes (resume_keepsBytes f s.latch { s with frames := fs }) h

theorem runMoves_keepsBytes {n : Nat} {s t : State} (h : runMoves n s = .next t) : KeepsBytes s t := by
  induction n generalizing s with
  | zero => cases h; exact .of_eq rfl
  | succ n ih =>
    simp only [runMoves] at h
    split at h
    · rename_i u hu; exact (micro_keepsBytes (.inl hu)).trans (ih h)
    · rename_i u hu; cases h; exact micro_keepsBytes (.inr hu)
    · cases h

theorem Starts.shadow {s u : State} (h : Starts s u) : u.shadow = s.shadow := by
  cases h with
  | resume hf e => rw [e]
  | record op c cs fs ho hf e => rw [e]
  | internal r rest op i hf hc hd hx hl e => rw [e]
  | external r rest op i hf hc hd hi hx hq e => rw [e]

/-- With a primitive in flight a step only takes its answer (log entry 14). -/
theorem step_of_inflight {s t : State} {p : Primitive} (hp : s.inflight = some p) (h : step s = .next t) :
    t = takeAnswer p s := by
  simp only [step, fetch, hp] at h
  split at h
  · cases h; rfl
  · cases h

theorem takeAnswer_keepsBytes (p : Primitive) (s : State) : KeepsBytes s (takeAnswer p s) := by
  unfold takeAnswer settle
  split <;> exact .of_eq rfl

/-- Settles O13: a step takes an answer, waits, or is runs of statements, and none of these clears a cell. -/
theorem shadowStaysDefined : Obligations.ShadowStaysDefined := by
  intro s t i h
  suffices hk : KeepsBytes s t from hk i
  cases hp : s.inflight with
  | some p => exact step_of_inflight hp h ▸ takeAnswer_keepsBytes p s
  | none =>
    obtain ⟨-, ⟨rfl, -⟩ | ⟨u, hu, hrun⟩⟩ := step_starts hp h
    · exact .of_eq rfl
    · exact (KeepsBytes.of_eq hu.shadow).trans (runMoves_keepsBytes hrun)
end Sys2Proof.Machine
end

section
/-! SUPPORT. The status word as a number, and the proof of its fields (R27). -/

namespace Sys2Proof.Machine

theorem sessionCode_lt (w : Session) : sessionCode w < 4 := by cases w <;> decide

/-- The three fields overlap in no bit, so the word is their sum. -/
theorem statusWord_eq (s : State) :
    statusWord s = 8 * pllStateCode s.pllState + (4 * s.hasLock.toNat + sessionCode s.session) := by
  have hsession := sessionCode_lt s.session
  have hlock := Bool.toNat_lt s.hasLock
  have hlow : sessionCode s.session ||| s.hasLock.toNat <<< 2 = 4 * s.hasLock.toNat + sessionCode s.session := by
    rw [Nat.lor_comm, Nat.shiftLeft_eq, Nat.mul_comm]
    exact (Nat.two_pow_add_eq_or_of_lt (i := 2) hsession _).symm
  rw [statusWord, hlow, Nat.lor_comm, Nat.shiftLeft_eq, Nat.mul_comm]
  exact (Nat.two_pow_add_eq_or_of_lt (i := 3) (by omega) _).symm

/-- Settles O47: each field is a digit of the sum. -/
theorem statusWordFields : Obligations.StatusWordFields := by
  intro s
  have hsession := sessionCode_lt s.session
  have hlock := Bool.toNat_lt s.hasLock
  rw [statusWord_eq]
  omega

end Sys2Proof.Machine
end

section
/-! SUPPORT. The bytes of a value and the value of bytes (R34), and the proof that they are inverse in both orders. -/

namespace Sys2Proof.Machine

/-! ### Widths -/

theorem isWidth_iff (w : Int) : isWidth w = true ↔ w = 1 ∨ w = 2 ∨ w = 4 := by simp [isWidth, or_assoc]

theorem isWidth_length_iff (bs : List Byte) :
    isWidth bs.length = true ↔ bs.length = 1 ∨ bs.length = 2 ∨ bs.length = 4 := by
  rw [isWidth_iff]
  omega

theorem fitsWidth_iff (v w : Int) :
    fitsWidth v w = true ↔ isWidth w = true ∧ 0 ≤ v ∧ v < 2 ^ (8 * w.toNat) := by
  simp [fitsWidth, and_assoc]

/-! ### Least significant byte first -/

theorem byteOf_toNat_eq_emod (v : Int) : ((byteOf v).toNat : Int) = v % 256 := by
  rw [byteOf, BitVec.toNat_ofInt]
  omega

@[simp] theorem littleBytes_length (v : Int) (n : Nat) : (littleBytes v n).length = n := by simp [littleBytes]

/-- The first byte is the remainder by 256, and the others are the bytes of the quotient. -/
theorem littleBytes_succ (v : Int) (n : Nat) : littleBytes v (n + 1) = byteOf v :: littleBytes (v / 256) n := by
  have hshift (i : Nat) : v / 2 ^ (8 * (i + 1)) = v / 256 / 2 ^ (8 * i) := by
    rw [Int.ediv_ediv_of_nonneg (by norm_num), Nat.mul_succ, pow_add, mul_comm]
    norm_num
  simp [littleBytes, List.range_succ_eq_map, Function.comp_def, hshift]

/-- The byte at position `i` has place value `256 ^ i` (R33). -/
theorem littleBytes_getD (v : Int) {n i : Nat} (hi : i < n) :
    (((littleBytes v n).getD i 0).toNat : Int) = v / 2 ^ (8 * i) % 256 := by
  simp [littleBytes, hi, byteOf_toNat_eq_emod]

/-- A value of `n` bytes is the value of its bytes. -/
theorem littleValue_littleBytes {v : Int} {n : Nat} (h0 : 0 ≤ v) (h : v < 2 ^ (8 * n)) :
    littleValue (littleBytes v n) = v := by
  induction n generalizing v with
  | zero =>
    have hv : v = 0 := by rw [Nat.mul_zero, pow_zero] at h; omega
    rw [hv]
    rfl
  | succ n ih =>
    rw [Nat.mul_succ, pow_add] at h
    rw [littleBytes_succ, littleValue, byteOf_toNat_eq_emod, ih (by omega) (by omega)]
    omega

/-- Bytes are the bytes of their value. -/
theorem littleBytes_littleValue (bs : List Byte) : littleBytes (littleValue bs) bs.length = bs := by
  induction bs with
  | nil => rfl
  | cons b bs ih =>
    have hb := b.isLt
    have hhead : byteOf (b.toNat + 256 * littleValue bs) = b := by
      apply BitVec.eq_of_toNat_eq
      have := byteOf_toNat_eq_emod (b.toNat + 256 * littleValue bs)
      omega
    have htail : (b.toNat + 256 * littleValue bs) / 256 = littleValue bs := by omega
    rw [List.length_cons, littleBytes_succ, littleValue, hhead, htail, ih]

/-- The value of `n` bytes fits `n` bytes. -/
theorem littleValue_bounds (bs : List Byte) : 0 ≤ littleValue bs ∧ littleValue bs < 2 ^ (8 * bs.length) := by
  induction bs with
  | nil => decide
  | cons b bs ih =>
    have hb := b.isLt
    rw [List.length_cons, Nat.mul_succ, pow_add, littleValue]
    omega

/-! ### Both orders -/

/-- Bytes given least significant first, in the order `o`, or the reverse of that. -/
def ByteOrder.arrange : ByteOrder → List Byte → List Byte
  | .little, bs => bs
  | .big, bs => bs.reverse

@[simp] theorem ByteOrder.arrange_arrange (o : ByteOrder) (bs : List Byte) : o.arrange (o.arrange bs) = bs := by
  cases o with
  | little => rfl
  | big => exact bs.reverse_reverse

@[simp] theorem ByteOrder.length_arrange (o : ByteOrder) (bs : List Byte) : (o.arrange bs).length = bs.length := by
  cases o with
  | little => rfl
  | big => exact bs.length_reverse

theorem encodeValue_of_fits {v w : Int} (o : ByteOrder) (h : fitsWidth v w = true) :
    encodeValue v w o = .ok (o.arrange (littleBytes v w.toNat)) := by
  obtain ⟨hw, hv⟩ := (fitsWidth_iff v w).1 h
  unfold encodeValue
  rw [if_pos hw, if_pos hv]
  cases o <;> rfl

theorem encodeValue_of_not_width (v : Int) {w : Int} (o : ByteOrder) (h : ¬ isWidth w = true) :
    encodeValue v w o = .error (.error .unsupportedRegisterWidth) := if_neg h

theorem encodeValue_of_not_fits {v w : Int} (o : ByteOrder) (hw : isWidth w = true)
    (h : ¬ (0 ≤ v ∧ v < 2 ^ (8 * w.toNat))) : encodeValue v w o = .error (.fault .valueOutOfRange) := by
  unfold encodeValue
  rw [if_pos hw, if_neg h]

theorem decodeValue_of_width {bs : List Byte} (o : ByteOrder) (h : isWidth bs.length = true) :
    decodeValue bs o = .ok (littleValue (o.arrange bs)) := by
  unfold decodeValue
  rw [if_pos h]
  cases o <;> rfl

theorem decodeValue_of_not_width {bs : List Byte} (o : ByteOrder) (h : ¬ isWidth bs.length = true) :
    decodeValue bs o = .error (.error .unsupportedRegisterWidth) := if_neg h

/-- What `encode` answers has the width asked for, and `decode` answers the value back. -/
theorem decodeValue_arrange_littleBytes {v w : Int} (o : ByteOrder) (h : fitsWidth v w = true) :
    (o.arrange (littleBytes v w.toNat)).length = w.toNat ∧
      decodeValue (o.arrange (littleBytes v w.toNat)) o = .ok v := by
  obtain ⟨hw, h0, hv⟩ := (fitsWidth_iff v w).1 h
  have hlen : (o.arrange (littleBytes v w.toNat)).length = w.toNat := by simp
  have hwidth : isWidth (o.arrange (littleBytes v w.toNat)).length = true := by
    rw [hlen, Int.toNat_of_nonneg (by have := (isWidth_iff w).1 hw; omega)]
    exact hw
  refine ⟨hlen, ?_⟩
  rw [decodeValue_of_width o hwidth, o.arrange_arrange, littleValue_littleBytes h0 hv]

/-- What `decode` answers fits the width of the bytes, and `encode` answers the bytes back. -/
theorem encodeValue_littleValue_arrange {bs : List Byte} (o : ByteOrder) (h : isWidth bs.length = true) :
    encodeValue (littleValue (o.arrange bs)) bs.length o = .ok bs := by
  have hfits : fitsWidth (littleValue (o.arrange bs)) bs.length = true :=
    (fitsWidth_iff _ _).2 ⟨h, by simpa using littleValue_bounds (o.arrange bs)⟩
  have hbytes : littleBytes (littleValue (o.arrange bs)) bs.length = o.arrange bs := by
    simpa using littleBytes_littleValue (o.arrange bs)
  rw [encodeValue_of_fits o hfits, Int.toNat_natCast, hbytes, o.arrange_arrange]

/-- Settles O48: the bytes of a value and the value of bytes are inverse by induction on the bytes, and an order is an
involution on top of them. -/
theorem byteOrders : Obligations.ByteOrders := by
  refine ⟨fun v w h => ⟨fun o => ⟨_, encodeValue_of_fits o h, decodeValue_arrange_littleBytes o h⟩,
    encodeValue_of_fits .little h, encodeValue_of_fits .big h, fun i hi => littleBytes_getD v hi⟩,
    fun v w o => ?_, fun bs o => ?_⟩
  · rw [← isWidth_iff]
    exact ⟨encodeValue_of_not_width v o, encodeValue_of_not_fits o⟩
  · rw [← isWidth_length_iff]
    exact ⟨decodeValue_of_not_width o,
      fun h => ⟨_, decodeValue_of_width o h, encodeValue_littleValue_arrange o h⟩⟩

end Sys2Proof.Machine
end

section
/-! SUPPORT. The decoder and the encoder as inverses (R50, R51, R57): what the canonical form of a record is, the record
of a decoded instruction, and the opcodes that are reserved (R59). -/

namespace Sys2Proof

/-! ### WC records -/

/-- A WC record is the record of the WriteCommand it stands for, with a form in R51 or without (R52). -/
theorem encodeWC_decodeWC (r : WCRecord) : encodeWC (decodeWC r) = r := by
  obtain ⟨tag, fields⟩ := r
  have htag : tag = BitVec.ofNat 8 tag.toNat := by simp
  unfold decodeWC
  dsimp only
  split
  case h_5 => rfl
  all_goals
    rename_i hn
    rw [hn] at htag
    rw [htag]
    rfl

theorem map_encodeWC_decodeWC (rs : List WCRecord) : (rs.map decodeWC).map encodeWC = rs := by
  simp [Function.comp_def, encodeWC_decodeWC]

/-- The record of a WriteCommand is that of the instruction it is dispatched as (R51, R75). -/
theorem encode_of_writeCommand {c : WriteCommand} {i : Instr} (h : c.instr = some i) : encode i = .wc (encodeWC c) := by
  cases c <;> cases h <;> rfl

/-! ### The types of the operands -/

theorem wholeOperand_idem (o : Operand) : wholeOperand (wholeOperand o) = wholeOperand o := by
  cases o with
  | rat q => by_cases hq : q.den = 1 <;> simp [wholeOperand, hq]
  | _ => rfl

theorem rationalOperand_idem (o : Operand) : rationalOperand (rationalOperand o) = rationalOperand o := by
  cases o <;> rfl

/-- An operand where R57 has a bool becomes one, or stays as it is. -/
theorem flagOperand_cases (o : Operand) : (∃ b, flagOperand o = .bool b) ∨ flagOperand o = o := by
  unfold flagOperand
  repeat' split
  all_goals simp

theorem flagOperand_idem (o : Operand) : flagOperand (flagOperand o) = flagOperand o := by
  rcases flagOperand_cases o with ⟨b, h⟩ | h
  · rw [h]
    rfl
  · rw [h, h]

/-- An opcode of R57 has one reading for all its operands. -/
theorem canonicalOperand_cases (opcode : Byte) : canonicalOperand opcode = flagOperand ∨
    canonicalOperand opcode = rationalOperand ∨ canonicalOperand opcode = wholeOperand := by
  unfold canonicalOperand
  split <;> simp

theorem canonicalOperand_idem (opcode : Byte) (o : Operand) :
    canonicalOperand opcode (canonicalOperand opcode o) = canonicalOperand opcode o := by
  rcases canonicalOperand_cases opcode with h | h | h <;> rw [h]
  · exact flagOperand_idem o
  · exact rationalOperand_idem o
  · exact wholeOperand_idem o

/-- A record whose operands are in the types of R57 is its own canonical form. -/
@[simp] theorem Record.canonical_canonical (r : Record) : r.canonical.canonical = r.canonical := by
  simp [Record.canonical, Function.comp_def, canonicalOperand_idem]

/-! ### CMD records -/

/-- A CMD record read as an instruction is that instruction's record: its opcode names the row of R57, and each operand
stands where the row has it. -/
theorem encode_of_decodeCanonical {r : Record} {i : Instr} (h : decodeCanonical r = .instr i) : encode i = .cmd r := by
  obtain ⟨opcode, operands⟩ := r
  suffices hrow : encode i = .cmd ⟨BitVec.ofNat 8 opcode.toNat, operands⟩ by simpa using hrow
  unfold decodeCanonical at h
  dsimp only at h
  generalize opcode.toNat = n at h ⊢
  split at h
  case h_12 =>
    -- `writeEach`: the one row whose operand is itself encoded
    split at h <;> cases h
    rw [encode, map_encodeWC_decodeWC]
    rfl
  all_goals
    repeat' split at h
    all_goals cases h
    all_goals rfl

/-- The opcodes of R57, as its three ranges. -/
def InTable (opcode : Byte) : Prop :=
  inRange 0x01 0x0F opcode.toNat = true ∨ inRange 0x20 0x2C opcode.toNat = true
    ∨ inRange 0x40 0x46 opcode.toNat = true

/-- The decoder has an arm for every opcode of the table, whatever the operands, and for no other (R59). -/
theorem decodeCanonical_reserved_iff (r : Record) : decodeCanonical r = .reserved ↔ ¬ InTable r.opcode := by
  unfold decodeCanonical InTable
  generalize r.opcode.toNat = n
  split
  case h_36 =>
    -- the decoder's last arm, reached by the opcodes that no row has
    refine iff_of_true rfl ?_
    simp only [inRange, Bool.and_eq_true, decide_eq_true_eq, imp_false] at *
    omega
  all_goals
    refine iff_of_false ?_ (not_not_intro (by decide))
    repeat' split
    all_goals nofun

end Sys2Proof
end

section
/-! SUPPORT. What a step does with a reserved opcode (R59), and the proofs of the statements on the decoder and the
encoder. -/

namespace Sys2Proof.Machine

/-- A reserved opcode faults in the step that would take its record (R59). -/
theorem step_of_reserved {s : State} {r : Record} {rest : List Record} (hs : Ready s) (hc : s.commands = r :: rest)
    (hd : decodeCmd r = .reserved) : step s = .fault .unknownCommand := by
  have hfetch : fetch s = .unknown := by simp only [hs.fetch_eq, fetchCommand, hc, hd]
  simp only [step, hs.1, hfetch, if_true]

/-! ### The statements -/

/-- Settles O1: each opcode and tag selects its own row, whose arm reads the operands back as they stand; a batch is read
back record by record. -/
theorem decodeInvertsEncode : Obligations.DecodeInvertsEncode := by
  intro i h
  cases i with
  | writeEach cs => exact Laws.RoundTrip.writeEach cs h
  | setGain g => exact Laws.RoundTrip.setGain g h
  | _ => rfl

/-- Settles O2: the canonical form is its own canonical form, and its instruction's record. -/
theorem encodeInvertsDecode : Obligations.EncodeInvertsDecode := by
  intro f i h
  cases f with
  | cmd r =>
    have hd : decodeCanonical r.canonical = .instr i := h
    refine ⟨encode_of_decodeCanonical hd, ?_⟩
    rw [Form.canonical, decode, decodeCmd, r.canonical_canonical, hd]
  | wc r =>
    refine ⟨?_, h⟩
    rw [encode_of_writeCommand (instr_of_decode_wc h), encodeWC_decodeWC, Form.canonical]

/-- Settles O3: which opcodes are reserved does not depend on the operands, and a step that finds one runs no command. -/
theorem reservedOpcodes : Obligations.ReservedOpcodes :=
  ⟨fun r => decodeCanonical_reserved_iff r.canonical, fun _ _ _ => step_of_reserved⟩

/-- Settles O4: each record is in its table's types, or is brought there value by value. -/
theorem decodeWords : Obligations.DecodeWords := ⟨rfl, rfl, rfl, rfl, rfl, rfl, rfl, rfl, rfl, rfl, rfl, rfl⟩

end Sys2Proof.Machine
end

section
/-! SUPPORT. The setup stage of a control transfer as a number, and the proof of its fields (R54). -/

namespace Sys2Proof.Machine

/-- A 16-bit field is two bytes of a little-endian number. -/
theorem littleValue_halfBytes (v : Half) (bs : List Byte) :
    littleValue (halfBytes v ++ bs) = v.toNat + 65536 * littleValue bs := by
  have hv := v.isLt
  have hlow : (v.extractLsb' 0 8).toNat = v.toNat % 256 := BitVec.extractLsb'_toNat ..
  have hhigh : (v.extractLsb' 8 8).toNat = v.toNat / 256 := by
    rw [BitVec.extractLsb'_toNat, Nat.shiftRight_eq_div_pow]
    omega
  simp only [halfBytes, List.cons_append, List.nil_append, littleValue, hlow, hhigh]
  omega

/-- The setup stage of a request type, two fields and a length: request 0 and eight bytes. -/
theorem littleValue_setup (t : Byte) (v i l : Half) :
    littleValue (t :: USB_REQUEST :: (halfBytes v ++ halfBytes i ++ halfBytes l)) =
      t.toNat + 65536 * (v.toNat + 65536 * (i.toNat + 65536 * l.toNat)) := by
  have hlast : littleValue (halfBytes l) = l.toNat := by simpa [littleValue] using littleValue_halfBytes l []
  have hreq : USB_REQUEST.toNat = 0 := rfl
  rw [littleValue, littleValue, List.append_assoc, littleValue_halfBytes, littleValue_halfBytes, hlast, hreq]
  omega

/-- Settles O49: both stages are a request type, the request and three 16-bit fields. -/
theorem setupStageFields : Obligations.SetupStageFields := by
  intro v i d n
  have hfield (l : Nat) (hl : l < 65536) : (BitVec.ofNat 16 l).toNat = l := Nat.mod_eq_of_lt hl
  refine ⟨fun hd => ⟨_, rfl, rfl, ?_⟩, fun hn => ⟨_, rfl, rfl, ?_⟩⟩
  · rw [littleValue_setup, hfield _ hd]
    rfl
  · rw [littleValue_setup, hfield _ hn]
    rfl

end Sys2Proof.Machine
end

section
/-! SUPPORT. Where the RegisterBus operations stop at their first statements (R64 to R78), and the proof that their
commands stop there before any traffic (R135). -/

namespace Sys2Proof.Machine

/-! ### Operands out of their range -/

section Operands

variable {b r v w m p a dev reg n : Int} {bs : List Byte} {s : State}

/-- The codes of R53 and no others name a block. -/
theorem blockOf_eq_none (h : isBlockCode b = false) : blockOf b = none := by
  simp only [isBlockCode, inRange, Bool.and_eq_false_iff, decide_eq_false_iff_not] at h
  rw [blockOf, if_neg, if_neg, if_neg, if_neg] <;> omega

theorem blockOf_isSome (h : isBlockCode b = true) : ∃ blk, blockOf b = some blk := by
  simp only [isBlockCode, inRange, Bool.and_eq_true, decide_eq_true_eq] at h
  have hb : b = 0 ∨ b = 1 ∨ b = 2 ∨ b = 3 := by omega
  rcases hb with rfl | rfl | rfl | rfl <;> exact ⟨_, rfl⟩

/-- A value that does not fit its width stops at `encode` (R34). -/
theorem encodeValue_of_fitsWidth_eq_false (o : ByteOrder) (hw : isWidth w = true) (h : fitsWidth v w = false) :
    encodeValue v w o = .error (.fault .valueOutOfRange) := by
  refine encodeValue_of_not_fits o hw fun hv => ?_
  rw [(fitsWidth_iff v w).2 ⟨hw, hv⟩] at h
  cases h

theorem enterWriteReg_address (h : isBlockCode b = false ∨ inRange 0 0xFFFF r = false) :
    enterOp (.writeReg b r v w) s = .fault .valueOutOfRange := by
  rcases h with h | h
  · simp only [enterOp, enterWriteReg, blockOf_eq_none h]
  · cases hb : blockOf b <;> simp [enterOp, enterWriteReg, hb, h]

theorem enterReadReg_address (h : isBlockCode b = false ∨ inRange 0 0xFFFF r = false) :
    enterOp (.readReg b r w) s = .fault .valueOutOfRange := by
  rcases h with h | h
  · simp only [enterOp, enterReadReg, blockOf_eq_none h]
  · cases hb : blockOf b <;> simp [enterOp, enterReadReg, hb, h]

/-- At an address in its range a register write stops where `encode` does (R64). -/
theorem enterWriteReg_stop {x : Stop} (hb : isBlockCode b = true) (hr : inRange 0 0xFFFF r = true)
    (h : encodeValue v w .little = .error x) : enterOp (.writeReg b r v w) s = x.act s := by
  obtain ⟨blk, hblk⟩ := blockOf_isSome hb
  simp only [enterOp, enterWriteReg, hblk, hr, h, if_true]

theorem enterReadReg_width (hb : isBlockCode b = true) (hr : inRange 0 0xFFFF r = true) (hw : isWidth w = false) :
    enterOp (.readReg b r w) s = .raise .unsupportedRegisterWidth s := by
  obtain ⟨blk, hblk⟩ := blockOf_isSome hb
  simp [enterOp, enterReadReg, hblk, hr, hw]

theorem enterWriteRegMask_value (h : isByte v = false ∨ isByte m = false) :
    enterOp (.writeRegMask b r v m) s = .fault .valueOutOfRange := by
  rcases h with h | h <;> simp [enterOp, enterWriteRegMask, h]

theorem enterWriteDemodReg_page (h : inRange 0 15 p = false) :
    enterOp (.writeDemodReg p a v w) s = .fault .invalidPage := by
  simp [enterOp, enterWriteDemodReg, h]

theorem enterReadDemodReg_page (h : inRange 0 15 p = false) : enterOp (.readDemodReg p a) s = .fault .invalidPage := by
  simp [enterOp, enterReadDemodReg, h]

theorem enterWriteDemodReg_address (hp : inRange 0 15 p = true) (h : isByte a = false) :
    enterOp (.writeDemodReg p a v w) s = .fault .valueOutOfRange := by
  simp [enterOp, enterWriteDemodReg, hp, h]

theorem enterReadDemodReg_address (hp : inRange 0 15 p = true) (h : isByte a = false) :
    enterOp (.readDemodReg p a) s = .fault .valueOutOfRange := by
  simp [enterOp, enterReadDemodReg, hp, h]

/-- At an address in its range a demodulator write stops where `encode` does (R67). -/
theorem enterWriteDemodReg_stop {x : Stop} (hp : inRange 0 15 p = true) (ha : isByte a = true)
    (h : encodeValue v w .big = .error x) : enterOp (.writeDemodReg p a v w) s = x.act s := by
  simp only [enterOp, enterWriteDemodReg, hp, ha, h, if_true]

/-! ### The I2C operations: the ranges first, then the repeater, then the length (log entry 11) -/

theorem enterReadI2CReg_range (h : isByte dev = false ∨ isByte reg = false) :
    enterOp (.readI2CReg dev reg) s = .fault .valueOutOfRange := by
  rcases h with h | h <;> simp [enterOp, enterReadI2CReg, h]

theorem enterWriteI2CReg_range (h : (isByte dev = false ∨ isByte reg = false) ∨ isByte v = false) :
    enterOp (.writeI2CReg dev reg v) s = .fault .valueOutOfRange := by
  rcases h with (h | h) | h <;> simp [enterOp, enterWriteI2CReg, h]

theorem enterReadI2CRegBuffer_range (h : isByte dev = false ∨ isByte reg = false) :
    enterOp (.readI2CRegBuffer dev reg n) s = .fault .valueOutOfRange := by
  rcases h with h | h <;> simp [enterOp, enterReadI2CRegBuffer, h]

theorem enterWriteI2CRegBuffer_range (h : isByte dev = false ∨ isByte reg = false) :
    enterOp (.writeI2CRegBuffer dev reg bs) s = .fault .valueOutOfRange := by
  rcases h with h | h <;> simp [enterOp, enterWriteI2CRegBuffer, h]

theorem enterReadI2CReg_closed (hd : isByte dev = true) (hr : isByte reg = true) (h : s.i2cOpen = false) :
    enterOp (.readI2CReg dev reg) s = .fault .i2cNotOpen := by
  simp [enterOp, enterReadI2CReg, hd, hr, h]

theorem enterWriteI2CReg_closed (hd : isByte dev = true) (hr : isByte reg = true) (hv : isByte v = true)
    (h : s.i2cOpen = false) : enterOp (.writeI2CReg dev reg v) s = .fault .i2cNotOpen := by
  simp [enterOp, enterWriteI2CReg, hd, hr, hv, h]

theorem enterReadI2CRegBuffer_closed (hd : isByte dev = true) (hr : isByte reg = true) (h : s.i2cOpen = false) :
    enterOp (.readI2CRegBuffer dev reg n) s = .fault .i2cNotOpen := by
  simp [enterOp, enterReadI2CRegBuffer, hd, hr, h]

theorem enterWriteI2CRegBuffer_closed (hd : isByte dev = true) (hr : isByte reg = true) (h : s.i2cOpen = false) :
    enterOp (.writeI2CRegBuffer dev reg bs) s = .fault .i2cNotOpen := by
  simp [enterOp, enterWriteI2CRegBuffer, hd, hr, h]

theorem enterReadI2CRegBuffer_length (hd : isByte dev = true) (hr : isByte reg = true) (ho : s.i2cOpen = true)
    (h : n < 1) : enterOp (.readI2CRegBuffer dev reg n) s = .fault .invalidLength := by
  simp [enterOp, enterReadI2CRegBuffer, hd, hr, ho, not_le.2 h]

theorem enterWriteI2CRegBuffer_length (hd : isByte dev = true) (hr : isByte reg = true) (ho : s.i2cOpen = true) :
    enterOp (.writeI2CRegBuffer dev reg []) s = .fault .invalidLength := by
  simp [enterOp, enterWriteI2CRegBuffer, hd, hr, ho]

theorem enterReadBulk_length (h : n < 1) : enterOp (.readBulk n) s = .fault .invalidLength := by
  simp [enterOp, enterReadBulk, not_le.2 h]

theorem enterReadBulk_unclaimed (h : 1 ≤ n) (hc : s.claimed = false) :
    enterOp (.readBulk n) s = .fault .interfaceNotClaimed := by
  simp [enterOp, enterReadBulk, h, hc]

end Operands

/-! ### From the first statement to the command -/

section Commands

variable {s : State} {i : Instr} {op op' : Op} {k : Frame} {t : State} {f : Fault} {e : Error}

/-- The first run of statements of an operation, in the state it is entered from. -/
theorem micro_entering (op : Op) (s : State) : micro (s.entering op) = (enterOp op { s with latch := .unit }).move := rfl

theorem runMoves_of_fault {n : Nat} (h : micro s = .fault f) : runMoves (n + 1) s = .fault f := by
  simp only [runMoves, h]

theorem runMoves_of_done {n : Nat} (h : micro s = .done t) : runMoves (n + 1) s = .next t := by
  simp only [runMoves, h]

theorem runMoves_of_more {n : Nat} (h : micro s = .more t) : runMoves (n + 1) s = runMoves n t := by
  simp only [runMoves, h]

theorem begin_of_fault (h : enterOp op { s with latch := .unit } = .fault f) : begin op s = .fault f :=
  runMoves_of_fault (by rw [micro_entering, h]; rfl)

theorem begin_of_raise (h : enterOp op { s with latch := .unit } = .raise e { s with latch := .unit }) :
    begin op s = .next (errorEntry e s) :=
  runMoves_of_done (by rw [micro_entering, h]; rfl)

/-- A fault of the operation called ends the command of its caller (R131). -/
theorem begin_of_call_fault (h : enterOp op { s with latch := .unit } = .call op' k t)
    (h' : enterOp op' { t with frames := k :: t.frames, latch := .unit } = .fault f) : begin op s = .fault f := by
  have hcall : micro (s.entering op) = .more (State.entering { t with frames := k :: t.frames } op') := by
    rw [micro_entering, h]
    rfl
  exact (runMoves_of_more hcall).trans (runMoves_of_fault (by rw [micro_entering, h']; rfl))

/-- The port accepts an internal command and begins its operation (R138). -/
theorem ReadyInternal.exec_of_begin {o : Host.Outcome State Fault Refusal} (hs : ReadyInternal s) (h : begin op s = o)
    (hx : exec i s = beginInternal op s := by rfl) : exec i s = o := by
  obtain ⟨-, htest, hlive⟩ := hs
  rw [hx, beginInternal, htest, hlive, ← h]
  rfl

theorem ReadyInternal.exec_fault (hs : ReadyInternal s) (h : enterOp op { s with latch := .unit } = .fault f)
    (hx : exec i s = beginInternal op s := by rfl) : exec i s = .fault f := hs.exec_of_begin (begin_of_fault h) hx

theorem ReadyInternal.exec_raise (hs : ReadyInternal s)
    (h : enterOp op { s with latch := .unit } = .raise e { s with latch := .unit })
    (hx : exec i s = beginInternal op s := by rfl) : exec i s = .next (errorEntry e s) :=
  hs.exec_of_begin (begin_of_raise h) hx

/-- A masked write stops at its address in the register read it begins with, or in its only write (R66). -/
theorem begin_writeRegMask_address {b r v m : Int} (h : isBlockCode b = false ∨ inRange 0 0xFFFF r = false) :
    begin (.writeRegMask b r v m) s = .fault .valueOutOfRange := by
  by_cases hvm : (isByte v && isByte m) = true
  · by_cases hm : m = 0xFF
    · exact begin_of_call_fault ((if_pos hvm).trans (if_pos hm)) (enterWriteReg_address h)
    · exact begin_of_call_fault ((if_pos hvm).trans (if_neg hm)) (enterReadReg_address h)
  · exact begin_of_fault (enterWriteRegMask_value (by simpa only [Bool.not_eq_true, Bool.and_eq_false_iff] using hvm))

/-- The chip id is read through the repeater (R80). -/
theorem begin_tunerCheck_closed (h : s.i2cOpen = false) : begin .tunerCheck s = .fault .i2cNotOpen :=
  begin_of_call_fault rfl (enterReadI2CReg_closed rfl rfl h)

end Commands

/-- Settles O44: each command stops where its operation does, at its first statement or at that of the operation called
first. -/
theorem busCommandStops : Obligations.BusCommandStops := by
  intro s hs
  refine ⟨?address, ?value, ?maskedValue, ?page, ?demodAddress, ?demodValue, ?i2cRange, ?i2cValue, ?closed, ?length,
    ?bulkLength, ?unclaimed, ?width⟩
  case address =>
    intro b a v w m h
    simp only [List.forall_mem_cons]
    exact ⟨hs.exec_fault (enterWriteReg_address h), hs.exec_fault (enterReadReg_address h),
      hs.exec_of_begin (begin_writeRegMask_address h), List.forall_mem_nil _⟩
  case value =>
    intro b a v w hb ha hw hv
    exact hs.exec_fault (enterWriteReg_stop hb ha (encodeValue_of_fitsWidth_eq_false .little hw hv))
  case maskedValue =>
    intro b a v m h
    exact hs.exec_fault (enterWriteRegMask_value h)
  case page =>
    intro p a v w hp
    exact ⟨hs.exec_fault (enterWriteDemodReg_page hp), hs.exec_fault (enterReadDemodReg_page hp)⟩
  case demodAddress =>
    intro p a v w hp ha
    exact ⟨hs.exec_fault (enterWriteDemodReg_address hp ha), hs.exec_fault (enterReadDemodReg_address hp ha)⟩
  case demodValue =>
    intro p a v w hp ha hw hv
    exact hs.exec_fault (enterWriteDemodReg_stop hp ha (encodeValue_of_fitsWidth_eq_false .big hw hv))
  case i2cRange =>
    intro d a v n bs h
    simp only [List.forall_mem_cons]
    exact ⟨hs.exec_fault (enterReadI2CReg_range h), hs.exec_fault (enterWriteI2CReg_range (.inl h)),
      hs.exec_fault (enterReadI2CRegBuffer_range h), hs.exec_fault (enterWriteI2CRegBuffer_range h),
      List.forall_mem_nil _⟩
  case i2cValue =>
    intro d a v hv
    exact hs.exec_fault (enterWriteI2CReg_range (.inr hv))
  case closed =>
    intro d a v n bs ho hd ha hv
    simp only [List.forall_mem_cons]
    exact ⟨hs.exec_fault (enterReadI2CReg_closed hd ha ho), hs.exec_fault (enterWriteI2CReg_closed hd ha hv ho),
      hs.exec_fault (enterReadI2CRegBuffer_closed hd ha ho), hs.exec_fault (enterWriteI2CRegBuffer_closed hd ha ho),
      hs.exec_of_begin (begin_tunerCheck_closed ho), List.forall_mem_nil _⟩
  case length =>
    intro d a n ho hd ha hn
    exact ⟨hs.exec_fault (enterReadI2CRegBuffer_length hd ha ho hn),
      hs.exec_fault (enterWriteI2CRegBuffer_length hd ha ho)⟩
  case bulkLength =>
    intro n hn
    exact hs.exec_fault (enterReadBulk_length hn)
  case unclaimed =>
    intro n hn hc
    exact hs.exec_fault (enterReadBulk_unclaimed hn hc)
  case width =>
    intro b a v w hw
    have henc (o : ByteOrder) : encodeValue v w o = .error (.error .unsupportedRegisterWidth) :=
      encodeValue_of_not_width v o (by simp [hw])
    exact ⟨rfl, rfl, rfl,
      fun hb ha => ⟨hs.exec_raise (enterWriteReg_stop hb ha (henc .little)),
        hs.exec_raise (enterReadReg_width hb ha hw)⟩,
      fun hp ha => hs.exec_raise (enterWriteDemodReg_stop hp ha (henc .big))⟩

end Sys2Proof.Machine
end

section
/-! SUPPORT. The RegisterBus operations in direct style where they complete: the exact primitives and the value, one rule
for each operation (R64 to R78); and the proofs that their commands complete so. -/

namespace Sys2Proof.Machine

/-! ### Answers to known primitives -/

/-- From the position `r` on the transport answers the primitives `ps` with `as`, one for each. -/
def Gives (O : Transport) : Run → List Primitive → List Answer → Prop
  | _, [], [] => True
  | r, p :: ps, a :: as => O r.answers.length p = a ∧ Gives O (r.asked p a) ps as
  | _, _, _ => False

/-- The position after the primitives `ps` with the answers `as`. -/
def Run.sent (r : Run) (ps : List Primitive) (as : List Answer) : Run :=
  ⟨{ r.state with trace := r.state.trace ++ ps }, r.answers ++ as⟩

section Rules

variable {O : Transport} {r : Run} {s : State} {x raw : List Byte} {y old : Byte} {as : List Answer}
  {b a v w m p d n : Int} {blk : Block} {bs : List Byte}

@[simp] theorem asked_sent (r : Run) (p : Primitive) (a : Answer) (ps : List Primitive) (as : List Answer) :
    (r.asked p a).sent ps as = r.sent (p :: ps) (a :: as) := by simp [Run.sent, Run.asked]

@[simp] theorem asked_cfg (r : Run) (p : Primitive) (a : Answer) : (r.asked p a).state.cfg = r.state.cfg := rfl

/-- The transport that holds a list of answers gives them to any primitives of that number. -/
theorem gives_scripted_append {ps : List Primitive} {bs as : List Answer} (hr : r.answers = bs)
    (h : ps.length = as.length) : Gives (scripted (bs ++ as)) r ps as := by
  induction ps generalizing r bs as with
  | nil =>
    obtain rfl : as = [] := List.eq_nil_of_length_eq_zero h.symm
    trivial
  | cons p ps ih =>
    cases as with
    | nil => cases h
    | cons a as =>
      have htail := ih (r := r.asked p a) (bs := bs ++ [a]) (by simp [Run.asked, hr]) (Nat.succ.inj h)
      exact ⟨by simp [scripted, hr], by simpa using htail⟩

theorem gives_scripted {ps : List Primitive} (h : ps.length = as.length) : Gives (scripted as) (Run.start s) ps as :=
  gives_scripted_append (bs := []) rfl h

/-- A primitive whose answer has a result (R14). -/
theorem ask_ok {p : Primitive} {a : Answer} {v : Value} (h : O r.answers.length p = a)
    (hv : primitiveResult p a = .ok v) : ask O p r = .ok v (r.asked p a) := by
  simp only [ask, h, hv]

/-- A read is answered with the number of bytes asked for (R37). -/
theorem primitiveResult_ctrlIn {v i : Half} {n : Nat} (h : x.length = n) :
    primitiveResult (.ctrlIn v i n) (.ok x) = .ok (.bytes x) := if_pos h

/-! ### Block registers -/

theorem directWriteReg_ok (hb : blockOf b = some blk) (ha : inRange 0 0xFFFF a = true) (hv : fitsWidth v w = true)
    (h : Gives O r [.ctrlOut (half a) (writeIndex r.state.cfg blk) (littleBytes v w.toNat)] [.ok x]) :
    directWriteReg O b a v w r =
      .ok () (r.sent [.ctrlOut (half a) (writeIndex r.state.cfg blk) (littleBytes v w.toNat)] [.ok x]) := by
  obtain ⟨hwrite, -⟩ := h
  simp only [directWriteReg, hb, ha, if_true, encodeValue_of_fits .little hv, ByteOrder.arrange, ask_ok hwrite rfl]
  rfl

/-- The bytes of a read are decoded where their number is a width (R34). -/
theorem directDecode_ok (h : isWidth raw.length = true) : directDecode (.bytes raw) r = .ok (littleValue raw) r := by
  simp only [directDecode, Value.asBytes, decodeValue_of_width .little h, ByteOrder.arrange]

theorem directReadReg_ok (hb : blockOf b = some blk) (ha : inRange 0 0xFFFF a = true) (hw : isWidth w = true)
    (hlen : raw.length = w.toNat)
    (h : Gives O r [.ctrlIn (half a) (blockId r.state.cfg blk) w.toNat] [.ok raw]) :
    directReadReg O b a w r =
      .ok (littleValue raw) (r.sent [.ctrlIn (half a) (blockId r.state.cfg blk) w.toNat] [.ok raw]) := by
  obtain ⟨hread, -⟩ := h
  have hwidth : isWidth raw.length = true := by
    rw [isWidth_iff] at hw
    rw [isWidth_length_iff]
    omega
  simp only [directReadReg, hb, ha, hw, if_true, ask_ok hread (primitiveResult_ctrlIn hlen), Result.andThen,
    directDecode_ok hwidth]
  rfl

/-- A byte is the one byte of its value. -/
theorem littleBytes_one (v : Int) : littleBytes v 1 = [byteOf v] := by simp [littleBytes]

theorem littleValue_singleton (y : Byte) : littleValue [y] = y.toNat := by simp [littleValue]

theorem fitsWidth_one_iff (v : Int) : fitsWidth v 1 = true ↔ isByte v = true := by
  simp only [fitsWidth_iff, isByte, inRange, Bool.and_eq_true, decide_eq_true_eq]
  have : isWidth 1 = true := rfl
  simp only [this, true_and, Int.toNat_one]
  omega

theorem isByte_toNat (y : Byte) : isByte (y.toNat : Int) = true := by
  have := y.isLt
  simp only [isByte, inRange, Bool.and_eq_true, decide_eq_true_eq]
  omega

/-- `writeReg` of one byte (R64). -/
theorem directWriteReg_byte (hb : blockOf b = some blk) (ha : inRange 0 0xFFFF a = true) (hv : isByte v = true)
    (h : Gives O r [.ctrlOut (half a) (writeIndex r.state.cfg blk) [byteOf v]] [.ok x]) :
    directWriteReg O b a v 1 r =
      .ok () (r.sent [.ctrlOut (half a) (writeIndex r.state.cfg blk) [byteOf v]] [.ok x]) := by
  rw [← littleBytes_one] at h ⊢
  exact directWriteReg_ok hb ha ((fitsWidth_one_iff v).2 hv) h

/-- With the mask 0xFF a masked write is a write (R66). -/
theorem directWriteRegMask_all (hb : blockOf b = some blk) (ha : inRange 0 0xFFFF a = true) (hv : isByte v = true)
    (h : Gives O r [.ctrlOut (half a) (writeIndex r.state.cfg blk) [byteOf v]] [.ok x]) :
    directWriteRegMask O b a v 0xFF r =
      .ok () (r.sent [.ctrlOut (half a) (writeIndex r.state.cfg blk) [byteOf v]] [.ok x]) := by
  have hrange : (isByte v && isByte 0xFF) = true := by rw [hv]; rfl
  simp only [directWriteRegMask, hrange, if_true, directWriteReg_byte hb ha hv h]

/-- With another mask a masked write reads the byte and writes it back merged (R66). -/
theorem directWriteRegMask_merge (hb : blockOf b = some blk) (ha : inRange 0 0xFFFF a = true) (hv : isByte v = true)
    (hm : isByte m = true) (hne : m ≠ 0xFF)
    (h : Gives O r [.ctrlIn (half a) (blockId r.state.cfg blk) 1,
      .ctrlOut (half a) (writeIndex r.state.cfg blk) [maskMerge old (byteOf v) (byteOf m)]] [.ok [old], .ok x]) :
    directWriteRegMask O b a v m r = .ok () (r.sent [.ctrlIn (half a) (blockId r.state.cfg blk) 1,
      .ctrlOut (half a) (writeIndex r.state.cfg blk) [maskMerge old (byteOf v) (byteOf m)]] [.ok [old], .ok x]) := by
  obtain ⟨hread, hwrite⟩ := h
  have hrange : (isByte v && isByte m) = true := by rw [hv, hm]; rfl
  have hold := directReadReg_ok (w := 1) (O := O) hb ha rfl rfl ⟨hread, trivial⟩
  rw [directWriteRegMask, if_pos hrange, if_neg hne, hold]
  simp only [Result.andThen, littleValue_singleton, byteOf_natCast_toNat]
  have hnew := directWriteReg_byte (O := O) (v := (maskMerge old (byteOf v) (byteOf m)).toNat) hb ha (isByte_toNat _)
    (by rwa [byteOf_natCast_toNat])
  rw [byteOf_natCast_toNat] at hnew
  exact hnew.trans (congrArg _ (asked_sent ..))

/-! ### Demodulator registers and the repeater -/

theorem directReadDemodReg_ok (hp : inRange 0 15 p = true) (ha : isByte a = true)
    (h : Gives O r [.ctrlIn (demodValue a) (half p) 1] [.ok [y]]) :
    directReadDemodReg O p a r = .ok y.toNat (r.sent [.ctrlIn (demodValue a) (half p) 1] [.ok [y]]) := by
  obtain ⟨hread, -⟩ := h
  simp only [directReadDemodReg, hp, ha, if_true, ask_ok hread (primitiveResult_ctrlIn rfl), Result.andThen,
    directDecode_ok (raw := [y]) rfl, littleValue_singleton]
  rfl

theorem directWriteDemodReg_ok (hp : inRange 0 15 p = true) (ha : isByte a = true) (hv : fitsWidth v w = true)
    (h : Gives O r (demodWritePrims p a (littleBytes v w.toNat).reverse) [.ok x, .ok [y]]) :
    directWriteDemodReg O p a v w r =
      .ok () (r.sent (demodWritePrims p a (littleBytes v w.toNat).reverse) [.ok x, .ok [y]]) := by
  obtain ⟨hwrite, hpoll⟩ := h
  have hread := directReadDemodReg_ok (O := O) (p := POLL_PAGE) (a := POLL_ADDR) rfl rfl hpoll
  simp only [directWriteDemodReg, hp, ha, if_true, encodeValue_of_fits .big hv, ByteOrder.arrange, ask_ok hwrite rfl,
    Result.andThen, hread, asked_sent]
  rfl

theorem directOpenI2C_ok (h : Gives O r (demodWritePrims 1 1 [0x18]) [.ok x, .ok [y]]) :
    directOpenI2C O r = .ok () ((r.sent (demodWritePrims 1 1 [0x18]) [.ok x, .ok [y]]).write
      { r.state with i2cOpen := true, trace := r.state.trace ++ demodWritePrims 1 1 [0x18] }) :=
  congrArg (Result.andThen · _) (directWriteDemodReg_ok (v := REPEATER_OPEN) (w := 1) rfl rfl rfl h)

theorem directCloseI2C_ok (h : Gives O r (demodWritePrims 1 1 [0x10]) [.ok x, .ok [y]]) :
    directCloseI2C O r = .ok () ((r.sent (demodWritePrims 1 1 [0x10]) [.ok x, .ok [y]]).write
      { r.state with i2cOpen := false, trace := r.state.trace ++ demodWritePrims 1 1 [0x10] }) :=
  congrArg (Result.andThen · _) (directWriteDemodReg_ok (v := REPEATER_CLOSE) (w := 1) rfl rfl rfl h)

/-! ### The I2C proxy -/

/-- The transfers of a write go through where each is answered ok, in either form (R32). -/
theorem directI2CWrite_ok (h : Gives O r (i2cWritePrims r.state.cfg d a bs) as) (hok : AllOk as) :
    directI2CWrite O d a bs r = .ok () (r.sent (i2cWritePrims r.state.cfg d a bs) as) := by
  unfold directI2CWrite
  unfold i2cWritePrims at h ⊢
  cases hform : r.state.cfg.i2cWriteForm with
  | twoPhase =>
    rw [hform] at h
    match as, h with
    | [a1, a2], ⟨hselect, hdata, _⟩ =>
      obtain ⟨x1, rfl⟩ := hok a1 (by simp)
      obtain ⟨x2, rfl⟩ := hok a2 (by simp)
      simp only [ask_ok hselect rfl, Result.andThen, asked_cfg, ask_ok hdata rfl]
      exact congrArg _ (asked_sent ..)
  | combined =>
    rw [hform] at h
    match as, h with
    | [a1], ⟨hdata, _⟩ =>
      obtain ⟨x1, rfl⟩ := hok a1 (by simp)
      simp only [ask_ok hdata rfl, Result.andThen]
      rfl

theorem directI2CRead_ok {k : Nat} (hlen : raw.length = k)
    (h : Gives O r (i2cReadPrims r.state.cfg d a k) [.ok x, .ok raw]) :
    directI2CRead O d a k r = .ok raw (r.sent (i2cReadPrims r.state.cfg d a k) [.ok x, .ok raw]) := by
  obtain ⟨hselect, hread, -⟩ := h
  have hbytes : ask O (i2cRead r.state.cfg d k) _ = _ := ask_ok hread (primitiveResult_ctrlIn hlen)
  simp only [directI2CRead, ask_ok hselect rfl, Result.andThen, asked_cfg, hbytes]
  exact congrArg _ (asked_sent ..)

theorem directReadI2CReg_ok (ho : r.state.i2cOpen = true) (hd : isByte d = true) (ha : isByte a = true)
    (h : Gives O r (i2cReadPrims r.state.cfg d a 1) [.ok x, .ok [y]]) :
    directReadI2CReg O d a r = .ok y (r.sent (i2cReadPrims r.state.cfg d a 1) [.ok x, .ok [y]]) := by
  have hread := directI2CRead_ok (k := 1) (raw := [y]) rfl h
  simp only [directReadI2CReg, hd, ha, ho, Bool.and_self, if_true, hread]
  rfl

theorem directWriteI2CReg_ok (ho : r.state.i2cOpen = true) (hd : isByte d = true) (ha : isByte a = true)
    (hv : isByte v = true) (h : Gives O r (i2cWritePrims r.state.cfg d a [byteOf v]) as) (hok : AllOk as) :
    directWriteI2CReg O d a v r = .ok () (r.sent (i2cWritePrims r.state.cfg d a [byteOf v]) as) := by
  simp only [directWriteI2CReg, hd, ha, hv, ho, Bool.and_self, if_true, directI2CWrite_ok h hok]

theorem directReadI2CRegBuffer_ok (ho : r.state.i2cOpen = true) (hd : isByte d = true) (ha : isByte a = true)
    (hn : 1 ≤ n) (hlen : raw.length = n.toNat)
    (h : Gives O r (i2cReadPrims r.state.cfg d a n.toNat) [.ok x, .ok raw]) :
    directReadI2CRegBuffer O d a n r =
      .ok raw (r.sent (i2cReadPrims r.state.cfg d a n.toNat) [.ok x, .ok raw]) := by
  simp only [directReadI2CRegBuffer, hd, ha, ho, hn, Bool.and_self, if_true, directI2CRead_ok hlen h]

theorem directWriteI2CRegBuffer_ok (ho : r.state.i2cOpen = true) (hd : isByte d = true) (ha : isByte a = true)
    (hn : 1 ≤ bs.length) (h : Gives O r (i2cWritePrims r.state.cfg d a bs) as) (hok : AllOk as) :
    directWriteI2CRegBuffer O d a bs r = .ok () (r.sent (i2cWritePrims r.state.cfg d a bs) as) := by
  simp only [directWriteI2CRegBuffer, hd, ha, ho, hn, Bool.and_self, if_true, directI2CWrite_ok h hok]

/-- The probe reads register 0 of the tuner and compares (R80). -/
theorem directCheck_ok (ho : r.state.i2cOpen = true)
    (h : Gives O r (i2cReadPrims r.state.cfg 0x34 0 1) [.ok x, .ok [y]]) :
    directCheck O r = .ok (y == 0x69) (r.sent (i2cReadPrims r.state.cfg 0x34 0 1) [.ok x, .ok [y]]) :=
  congrArg (Result.andThen · _) (directReadI2CReg_ok ho rfl rfl h)

/-- A status read reverses each byte (R82). -/
theorem directReadRegBuffer_ok (ht : r.state.tunerPresent = true) (ho : r.state.i2cOpen = true) (ha : 0 ≤ a)
    (hn : 1 ≤ n) (hend : a + n ≤ 0x20) (hlen : raw.length = n.toNat)
    (h : Gives O r (i2cReadPrims r.state.cfg 0x34 a n.toNat) [.ok x, .ok raw]) :
    directReadRegBuffer O a n r = .ok (raw.map (bitrev r.state.cfg.bitrevMode))
      (r.sent (i2cReadPrims r.state.cfg 0x34 a n.toNat) [.ok x, .ok raw]) := by
  have haddr : inRange 0x00 0x1F a = true ∧ isByte a = true := by
    simp only [isByte, inRange, Bool.and_eq_true, decide_eq_true_eq]
    omega
  have hread := directReadI2CRegBuffer_ok (O := O) (d := TUNER_I2C_ADDR) ho rfl haddr.2 hn hlen h
  simp only [directReadRegBuffer, directTuner, ht, haddr.1, hn, hend, decide_true, Bool.and_self, if_true, hread]
  rfl

/-! ### The interface and the bulk endpoint -/

theorem directClaim_ok (h : Gives O r [.claim 0] [.ok x]) :
    directClaim O r = .ok () ((r.sent [.claim 0] [.ok x]).write
      { r.state with claimed := true, trace := r.state.trace ++ [.claim 0] }) :=
  congrArg (Result.andThen · _) (ask_ok h.1 rfl)

theorem directRelease_ok (h : Gives O r [.release 0] [.ok x]) :
    directRelease O r = .ok () ((r.sent [.release 0] [.ok x]).write
      { r.state with claimed := false, trace := r.state.trace ++ [.release 0] }) :=
  congrArg (Result.andThen · _) (ask_ok h.1 rfl)

theorem directReadBulk_ok (hc : r.state.claimed = true) (hn : 1 ≤ n) (hlen : raw.length = n.toNat)
    (h : Gives O r [.bulkIn 1 n.toNat] [.ok raw]) :
    directReadBulk O n r = .ok raw (r.sent [.bulkIn 1 n.toNat] [.ok raw]) := by
  have hread := ask_ok (v := .bytes raw) h.1 (if_pos hlen)
  simp only [directReadBulk, hn, hc, if_true, show (BULK_EP : Nat) = 1 from rfl, hread]
  rfl

end Rules

/-! ### The commands -/

section Commands

variable {α : Type} {s u : State} {i : Instr} {x : Result α} {v : α} {as : List Answer}

/-- A command completes where its operation does, under the transport that holds its answers. -/
theorem completes_of_scripted (w : α → Value) (ha : Accepts i s) (hx : x = .ok v ⟨u, as⟩)
    (hd : direct (scripted as) i (Run.start s) = x.map w := by rfl) : Completes i s as (w v) u :=
  completes_of_direct (r := ⟨u, as⟩) ha (hd.trans (congrArg (Result.map w) hx))

end Commands

/-- Settles O17: the one transfer of `writeReg`, for the command and for the record. -/
theorem writeRegCompletes : Obligations.WriteRegCompletes := by
  intro s b a v w blk x hb ha hv
  have hrun := directWriteReg_ok hb ha hv (gives_scripted (s := s) (as := [.ok x]) rfl)
  exact ⟨fun hs => completes_of_scripted unitValue hs hrun,
    fun hs => completes_of_scripted unitValue hs hrun⟩

/-- Settles O18: the one transfer of each read, whose bytes are decoded. -/
theorem registerReadsComplete : Obligations.RegisterReadsComplete := by
  intro s raw hs
  refine ⟨fun b a w blk hb ha hw hlen => ?_, fun p a y hp ha hraw => ?_⟩
  · exact completes_of_scripted Value.int hs (directReadReg_ok hb ha hw hlen (gives_scripted rfl))
  · subst hraw
    exact completes_of_scripted Value.int hs (directReadDemodReg_ok hp ha (gives_scripted rfl))

/-- Settles O19: by the mask, directly or by a read and a write of the merged byte. -/
theorem writeRegMaskCompletes : Obligations.WriteRegMaskCompletes := by
  intro s b a v m blk x old hb ha hv hm
  have hall := directWriteRegMask_all hb ha hv (gives_scripted (s := s) (as := [.ok x]) rfl)
  have hmerge (hne : m ≠ 0xFF) :=
    directWriteRegMask_merge hb ha hv hm hne (gives_scripted (s := s) (as := [.ok [old], .ok x]) rfl)
  refine ⟨?commandAll, ?commandMerge, ?recordAll, ?recordMerge⟩
  case commandAll =>
    rintro hs rfl
    exact completes_of_scripted unitValue hs hall
  case commandMerge =>
    intro hs hne
    exact completes_of_scripted unitValue hs (hmerge hne)
  case recordAll =>
    rintro hs rfl
    exact completes_of_scripted unitValue hs hall
  case recordMerge =>
    intro hs hne
    exact completes_of_scripted unitValue hs (hmerge hne)

/-- Settles O20: the write and its poll, for the command and for the record. -/
theorem writeDemodRegCompletes : Obligations.WriteDemodRegCompletes := by
  intro s p a v w x y hp ha hv
  have hrun := directWriteDemodReg_ok hp ha hv (gives_scripted (s := s) (as := [.ok x, .ok [y]]) rfl)
  exact ⟨fun hs => completes_of_scripted unitValue hs hrun,
    fun hs => completes_of_scripted unitValue hs hrun⟩

/-- Settles O22: each read by the two transfers of the proxy; the status read is the one that reverses. -/
theorem i2CReadsComplete : Obligations.I2CReadsComplete := by
  intro s x raw y hs ho
  refine ⟨fun d a hd ha => ⟨?_, fun n hn hlen => readI2CRegBuffer_completes hs ho hd ha hn hlen⟩, ?_,
    fun a n ht ha hn hend hlen => ?_⟩
  · exact completes_of_scripted Value.byte hs (directReadI2CReg_ok ho hd ha (gives_scripted rfl))
  · exact completes_of_scripted Value.bool hs (directCheck_ok ho (gives_scripted rfl))
  · exact completes_of_scripted Value.bytes hs (directReadRegBuffer_ok ht ho ha hn hend hlen (gives_scripted rfl))

/-- Settles O23: the transfers of the write form, for the commands and for the record. -/
theorem i2CWritesComplete : Obligations.I2CWritesComplete := by
  intro s d a v bs as ho hd ha hok
  have hbyte (hv : isByte v = true) (hlen : as.length = (i2cWritePrims s.cfg d a [byteOf v]).length) :=
    directWriteI2CReg_ok ho hd ha hv (gives_scripted (s := s) hlen.symm) hok
  refine ⟨fun hs hv hlen => ?_, fun hs hv hlen => ?_, fun hs hn hlen => ?_⟩
  · exact completes_of_scripted unitValue hs (hbyte hv hlen)
  · exact completes_of_scripted unitValue hs (hbyte hv hlen)
  · exact completes_of_scripted unitValue hs (directWriteI2CRegBuffer_ok ho hd ha hn (gives_scripted hlen.symm) hok)

/-- Settles O25: the one primitive of each, and the flag it moves. -/
theorem interfaceCommandsComplete : Obligations.InterfaceCommandsComplete := by
  intro s x d n hs
  refine ⟨?_, ?_, fun hc hn hlen => ?_⟩
  · exact completes_of_scripted unitValue hs (directClaim_ok (gives_scripted rfl))
  · exact completes_of_scripted unitValue hs (directRelease_ok (gives_scripted rfl))
  · exact completes_of_scripted Value.bytes hs (directReadBulk_ok hc hn hlen (gives_scripted rfl))

end Sys2Proof.Machine
end

section
/-! SUPPORT. Batches under a transport that answers every primitive (R75), and the proof that they complete, or end at an
unknown record after the records before it (R52). -/

namespace Sys2Proof.Machine

/-! ### A transport that answers everything -/

section Faithful

variable {O : Transport} {r : Run} {b a v w m p d : Int}

/-- Every primitive is answered ok (R37). -/
theorem Faithful.answers_ok (hO : Faithful O) (k : Nat) (p : Primitive) : ∃ x, O k p = .ok x := by
  obtain ⟨v, hv⟩ := hO k p
  cases ha : O k p with
  | ok x => exact ⟨x, rfl⟩
  | fail c => rw [ha] at hv; cases hv

/-- A read is answered with the number of bytes asked for (R37). -/
theorem Faithful.answers_ctrlIn (hO : Faithful O) (k : Nat) (v i : Half) (n : Nat) :
    ∃ x, O k (.ctrlIn v i n) = .ok x ∧ x.length = n := by
  obtain ⟨x, hx⟩ := hO.answers_ok k (.ctrlIn v i n)
  refine ⟨x, hx, ?_⟩
  obtain ⟨u, hu⟩ := hO k (.ctrlIn v i n)
  rw [hx] at hu
  by_contra hne
  simp [primitiveResult, hne] at hu

theorem Faithful.answers_byte (hO : Faithful O) (k : Nat) (v i : Half) : ∃ y, O k (.ctrlIn v i 1) = .ok [y] := by
  obtain ⟨x, hx, hlen⟩ := hO.answers_ctrlIn k v i 1
  obtain ⟨y, rfl⟩ := List.length_eq_one_iff.1 hlen
  exact ⟨y, hx⟩

/-- Any primitives are given answers, every one ok. -/
theorem Faithful.gives (hO : Faithful O) (r : Run) (ps : List Primitive) : ∃ as, Gives O r ps as ∧ AllOk as := by
  induction ps generalizing r with
  | nil => exact ⟨[], trivial, nofun⟩
  | cons p ps ih =>
    obtain ⟨x, hx⟩ := hO.answers_ok r.answers.length p
    obtain ⟨as, hgives, hok⟩ := ih (r.asked p (.ok x))
    exact ⟨.ok x :: as, ⟨hx, hgives⟩, List.forall_mem_cons.2 ⟨⟨x, rfl⟩, hok⟩⟩

/-! ### Records that can run -/

theorem Faithful.writeReg_ok (hO : Faithful O) (h : (WriteCommand.reg b a v w).wellFormed = true) :
    ∃ r1, directWriteReg O b a v w r = .ok () r1 := by
  simp only [WriteCommand.wellFormed, Bool.and_eq_true] at h
  obtain ⟨⟨hb, ha⟩, hv⟩ := h
  obtain ⟨blk, hblk⟩ := blockOf_isSome hb
  obtain ⟨x, hx⟩ := hO.answers_ok r.answers.length _
  exact ⟨_, directWriteReg_ok hblk ha hv ⟨hx, trivial⟩⟩

theorem Faithful.writeRegMask_ok (hO : Faithful O) (h : (WriteCommand.regMask b a v m).wellFormed = true) :
    ∃ r1, directWriteRegMask O b a v m r = .ok () r1 := by
  simp only [WriteCommand.wellFormed, Bool.and_eq_true] at h
  obtain ⟨⟨⟨hb, ha⟩, hv⟩, hm⟩ := h
  obtain ⟨blk, hblk⟩ := blockOf_isSome hb
  by_cases hall : m = 0xFF
  · subst hall
    obtain ⟨x, hx⟩ := hO.answers_ok r.answers.length _
    exact ⟨_, directWriteRegMask_all hblk ha hv ⟨hx, trivial⟩⟩
  · obtain ⟨old, hold⟩ := hO.answers_byte r.answers.length _ _
    obtain ⟨x, hx⟩ := hO.answers_ok (r.asked _ (.ok [old])).answers.length _
    exact ⟨_, directWriteRegMask_merge hblk ha hv hm hall ⟨hold, hx, trivial⟩⟩

theorem Faithful.writeDemodReg_ok (hO : Faithful O) (h : (WriteCommand.demodReg p a v w).wellFormed = true) :
    ∃ r1, directWriteDemodReg O p a v w r = .ok () r1 := by
  simp only [WriteCommand.wellFormed, Bool.and_eq_true] at h
  obtain ⟨⟨hp, ha⟩, hv⟩ := h
  obtain ⟨x, hx⟩ := hO.answers_ok r.answers.length _
  obtain ⟨y, hy⟩ := hO.answers_byte (r.asked _ (.ok x)).answers.length _ _
  exact ⟨_, directWriteDemodReg_ok hp ha hv ⟨hx, hy, trivial⟩⟩

theorem Faithful.writeI2CReg_ok (hO : Faithful O) (ho : r.state.i2cOpen = true)
    (h : (WriteCommand.i2cReg d a v).wellFormed = true) : ∃ r1, directWriteI2CReg O d a v r = .ok () r1 := by
  simp only [WriteCommand.wellFormed, Bool.and_eq_true] at h
  obtain ⟨⟨hd, ha⟩, hv⟩ := h
  obtain ⟨as, hgives, hok⟩ := hO.gives r _
  exact ⟨_, directWriteI2CReg_ok ho hd ha hv hgives hok⟩

/-- A batch that can run completes: no record moves the repeater, so each finds it as the first does. -/
theorem Faithful.writeEach_ok (hO : Faithful O) {cs : List WriteCommand} (h : batchRuns r.state.i2cOpen cs = true) :
    ∃ r1, directWriteEach O cs r = .ok () r1 := by
  induction cs generalizing r with
  | nil => exact ⟨r, rfl⟩
  | cons c cs ih =>
    simp only [batchRuns, List.all_cons, Bool.and_eq_true] at h
    obtain ⟨⟨hwf, hopen⟩, hcs⟩ := h
    have hrecord : ∃ r1, directRecord O c r = .ok () r1 := by
      cases c with
      | reg b a v w => exact hO.writeReg_ok hwf
      | regMask b a v m => exact hO.writeRegMask_ok hwf
      | demodReg p a v w => exact hO.writeDemodReg_ok hwf
      | i2cReg d a v => exact hO.writeI2CReg_ok hopen hwf
      | unknown tag fields => cases hopen
    obtain ⟨r1, hr1⟩ := hrecord
    have hsame : SameButTrace r.state r1.state := (record_frame c r).of_ok hr1
    have hi2c : r1.state.i2cOpen = r.state.i2cOpen := by rw [hsame]
    obtain ⟨r2, hr2⟩ := ih (r := r1) (by rw [hi2c]; exact hcs)
    exact ⟨r2, by rw [directWriteEach, hr1]; exact hr2⟩

end Faithful

/-! ### The unknown record -/

/-- A batch runs its first part and then the rest. -/
theorem directWriteEach_append (O : Transport) (cs ds : List WriteCommand) (r : Run) :
    directWriteEach O (cs ++ ds) r = (directWriteEach O cs r).andThen fun _ r => directWriteEach O ds r := by
  induction cs generalizing r with
  | nil => rfl
  | cons c cs ih => simp only [List.cons_append, directWriteEach, andThen_assoc, ih]

/-- The tags of R51 are 0x00 to 0x03. -/
theorem fieldCount_isSome_iff (tag : Byte) : (fieldCount tag).isSome = true ↔ tag.toNat ≤ 3 := by
  unfold fieldCount
  split <;> grind

section Endings

variable {O : Transport} {i : Instr} {s : State} {r : Run} {e : Error} {f : Fault}

/-- A command ends in an error where its direct style does. -/
theorem endsInError_of_direct {P : State → Prop} (ha : Accepts i s) (h : direct O i (Run.start s) = .error e r)
    (hP : P (r.failed i e [])) : EndsInError O i s e P := by
  refine ⟨r, h, hP, fun rest => ?_⟩
  have hfollows := machineFollowsDirectStyle O i s ha rest
  simpa only [h, Result.answers, Result.outcome] using hfollows

/-- A command ends in a model fault where its direct style does. -/
theorem endsInFault_of_direct (ha : Accepts i s) (h : direct O i (Run.start s) = .fault f r) : EndsInFault O i s f := by
  refine ⟨r, h, fun rest => ?_⟩
  have hfollows := machineFollowsDirectStyle O i s ha rest
  simpa only [h, Result.answers, Result.outcome] using hfollows

end Endings

/-- Settles O24: the records before an unknown one complete under a transport that answers, and the unknown one stops the
batch by its tag. -/
theorem writeEachCompletes : Obligations.WriteEachCompletes := by
  intro O s cs rest tag fields hs hO hruns
  obtain ⟨r, hr⟩ := hO.writeEach_ok (r := Run.start s) hruns
  have hstop : direct O (.writeEach (cs ++ .unknown tag fields :: rest)) (Run.start s) =
      ((directRecord O (.unknown tag fields) r).andThen fun _ r => directWriteEach O rest r).map unitValue := by
    simp only [direct, directWriteEach_append, hr, Result.andThen, directWriteEach]
  refine ⟨?completes, fun htag => ?error, fun htag => ?fault⟩
  case completes =>
    have hdirect : direct O (.writeEach cs) (Run.start s) = .ok .unit r := congrArg (Result.map unitValue) hr
    exact ⟨.unit, r, hdirect, ⟨rfl, (writeEach_frame cs _).of_ok hr⟩, completes_of_direct hs hdirect⟩
  case error =>
    have hnone : ¬ (fieldCount tag).isSome = true := by rw [fieldCount_isSome_iff]; omega
    rw [directRecord, if_neg hnone] at hstop
    exact endsInError_of_direct hs hstop ⟨rfl, r, hr, rfl⟩
  case fault =>
    rw [directRecord, if_pos ((fieldCount_isSome_iff tag).2 htag)] at hstop
    exact endsInFault_of_direct hs hstop

end Sys2Proof.Machine
end

section
/-! SUPPORT. The step that issues a primitive (R6), and the proof that a failed one ends the command in it (R63, R132). -/

namespace Sys2Proof.Machine

/-! ### The primitive of a step -/

/-- From `s`, before either port is used, the state `t` comes of issuing `p` and taking its answer. -/
def Issues (p : Primitive) (s t : State) : Prop := ∃ w, Quiet s w ∧ t = transact p w

theorem Issues.of_quiet {p : Primitive} {s t u : State} (h : Quiet s t) (k : Issues p t u) : Issues p s u := by
  obtain ⟨w, hw, hu⟩ := k
  exact ⟨w, h.trans hw, hu⟩

theorem transact_trace (p : Primitive) (s : State) : (transact p s).trace = s.trace ++ [p] := by
  rcases transact_cases p s with ⟨v, ht⟩ | ⟨e, ht⟩ <;> simp [ht]

/-- A run of statements that ends the step ends in a primitive, or puts none on the record. -/
theorem micro_done_cases {s t : State} (h : micro s = .done t) : t.trace = s.trace ∨ ∃ p, Issues p s t := by
  unfold micro at h
  split at h
  · cases h; exact .inl rfl
  · rename_i f fs hf
    have hk := resume_kept f s.latch { s with frames := fs }
    generalize resume f s.latch { s with frames := fs } = a at h hk
    cases a with
    | prim p k u =>
      cases h
      exact .inr ⟨p, { u with frames := k :: u.frames }, ⟨hk.trace, hk.answers, hk.responses⟩, rfl⟩
    | call op k u => cases h
    | ret v u =>
      simp only [Act.move, returnValue] at h
      split at h
      · cases h; exact .inl hk.trace
      · cases h
    | raise e u => cases h; exact .inl hk.trace
    | fault x => cases h

theorem runMoves_cases {n : Nat} {s t : State} (h : runMoves n s = .next t) :
    t.trace = s.trace ∨ ∃ p, Issues p s t := by
  induction n generalizing s with
  | zero => cases h; exact .inl rfl
  | succ n ih =>
    simp only [runMoves] at h
    split at h
    · rename_i u hu
      have hquiet := micro_ports.1 hu
      rw [← hquiet.trace]
      exact (ih h).imp_right fun ⟨p, hp⟩ => ⟨p, .of_quiet hquiet hp⟩
    · rename_i u hu; cases h; exact micro_done_cases hu
    · cases h

/-- A step that puts a primitive on the record ends with its answer. -/
theorem step_issues {s t : State} {p : Primitive} (hi : s.inflight = none) (h : step s = .next t)
    (htrace : t.trace = s.trace ++ [p]) : Issues p s t := by
  obtain ⟨-, ⟨rfl, -⟩ | ⟨u, hu, hrun⟩⟩ := step_starts hi h
  · simp at htrace
  · obtain ⟨hquiet, -⟩ := hu.ports
    rcases runMoves_cases hrun with hsame | ⟨q, hq⟩
    · rw [hsame, hquiet.trace] at htrace
      simp at htrace
    · obtain ⟨w, hw, rfl⟩ := Issues.of_quiet hquiet hq
      rw [transact_trace, hw.trace] at htrace
      obtain rfl : q = p := by simpa using htrace
      exact ⟨w, hw, rfl⟩

/-! ### A primitive that fails -/

/-- The transport's answer depends on the answers to come and on how many primitives came before (R37). -/
theorem nextAnswer_issue_congr {s w : State} (h : Quiet s w) (p : Primitive) :
    nextAnswer p (issue p w) = nextAnswer p (issue p s) := by
  simp only [nextAnswer, issue_answers, issue_trace, h.answers, h.trace]

/-- A primitive that fails, or a read whose answer has the wrong length, raises the error of its direction and address
with that cause (R63). -/
theorem primitiveResult_failed {p : Primitive} {a : Answer} {c : Cause}
    (h : (∃ n, a = .fail n ∧ c = .transport n) ∨ ∃ d, a = .ok d ∧ c = .shortTransfer ∧
      ((∃ v i n, p = .ctrlIn v i n ∧ d.length ≠ n) ∨ ∃ ep n, p = .bulkIn ep n ∧ d.length ≠ n)) :
    primitiveResult p a = .error (transferError p c) := by
  rcases h with ⟨n, rfl, rfl⟩ | ⟨d, rfl, rfl, ⟨v, i, n, rfl, hlen⟩ | ⟨ep, n, rfl, hlen⟩⟩
  · rfl
  · exact if_neg hlen
  · exact if_neg hlen

/-- The error of a primitive leaves the command in the step that issued it (R63, R132). -/
theorem transact_raises {p : Primitive} {w : State} {e : Error}
    (h : primitiveResult p (nextAnswer p (issue p w)) = .error e) : transact p w =
      errorEntry e { w with inflight := none, trace := w.trace ++ [p], answers := w.answers.tail } := by
  simp only [transact, takeAnswer, settle, h]
  rfl

/-- Every transfer but a bulk read fails the session (R134). -/
theorem not_isBulkFailure_transferError {p : Primitive} (h : ∀ ep n, p ≠ .bulkIn ep n) (c : Cause) :
    isBulkFailure (transferError p c) = false := by
  cases p with
  | bulkIn ep n => exact absurd rfl (h ep n)
  | _ => rfl

/-- Settles O16: the step ends in the primitive, whose error then leaves the command. -/
theorem failedTransferEndsCommand : Obligations.FailedTransferEndsCommand := by
  intro s t p c hi hstep htrace hfail
  obtain ⟨w, hw, rfl⟩ := step_issues hi hstep htrace
  rw [← nextAnswer_issue_congr hw] at hfail
  have hresponses : (errorEntry (transferError p c) w).responses = s.responses ++ [.err (transferError p c)] := by
    rw [errorEntry_responses, hw.responses]
  rw [transact_raises (primitiveResult_failed hfail)]
  refine ⟨rfl, rfl, rfl, ?write, ?read, ?claim, ?release, ?bulk, fun hbulk => ?session⟩
  case write => rintro v i d rfl; exact hresponses
  case read => rintro v i n rfl; exact hresponses
  case claim => rintro i rfl; exact hresponses
  case release => rintro i rfl; exact hresponses
  case bulk => rintro ep n rfl; exact hresponses
  case session => simp [not_isBulkFailure_transferError hbulk]

end Sys2Proof.Machine
end

section
/-! SUPPORT. What moves the repeater flag (R69, R70, R23 a), and the proof that `openI2C` and `closeI2C` complete and
alone move it. -/

namespace Sys2Proof.Machine

/-! ### The two repeater operations -/

/-- The frame at which a repeater operation sets the flag to `b`: its write and poll are complete (R69, R70). -/
def repeaterDone : Bool → Frame
  | true => .openI2CDone
  | false => .closeI2CDone

/-- The operation that sets the flag to `b`. -/
def repeaterOp : Bool → Op
  | true => .openI2C
  | false => .closeI2C

/-- The write that a repeater operation calls before it sets the flag to `b`. -/
def repeaterWrite : Bool → Op
  | true => .writeDemodReg REPEATER_PAGE REPEATER_ADDR REPEATER_OPEN 1
  | false => .writeDemodReg REPEATER_PAGE REPEATER_ADDR REPEATER_CLOSE 1

/-- The flag is in `t` as in `s`. -/
def SameRepeater (s t : State) : Prop := t.i2cOpen = s.i2cOpen

section Statements

variable {s u : State} {b : Bool} {f : Frame} {op : Op} {v : Value}

theorem stopUnknown_all {P : State → Prop} (c : WriteCommand) (h : P s) : (stopUnknown c s).All P := by
  rcases stopUnknown_cases c s with hc | hc <;> rw [hc]
  · trivial
  · exact h

/-- No operation moves the flag at its first statements. -/
theorem enterOp_i2cOpen (op : Op) (s : State) : (enterOp op s).All (SameRepeater s) := by
  have hs : SameRepeater s s := rfl
  cases op
  all_goals
    simp only [enterOp, enterWriteReg, enterReadReg, enterWriteRegMask, enterWriteDemodReg, enterReadDemodReg,
      enterReadI2CReg, enterWriteI2CReg, enterReadI2CRegBuffer, enterWriteI2CRegBuffer, loopWriteEach, enterReadBulk,
      enterSetFrequency, enterSetMux, enterSetPll, enterGetPllLock, enterTunerReadRegBuffer, enterTunerWriteRegMask,
      enterTunerInit, loopTunerInit, enterTunerClose, enterSetAutoGain, enterSetManualGain, enterInitElectronics,
      enterCalibrateFilter, enterOpen, enterSetGain, enterSetSampleRate, enterSetCenterFrequency, enterSetGainInner,
      enterResetBuffer, enterReadSamples, enterClose, requireTuner, requireSession, loopTunerBatch, loopSetMux,
      loopTunerClose]
    repeat' split
  all_goals first | exact hs | trivial | exact Stop.act_all _ _ hs _ | exact stopUnknown_all _ hs

/-- Only the two repeater operations move the flag, at the statement after their write, each to its own value. -/
theorem resume_i2cOpen (hf : f ≠ repeaterDone b) (v : Value) (s : State) :
    (resume f v s).All fun t => t.i2cOpen = b → s.i2cOpen = b := by
  have hsame {a : Act} (h : a.All (SameRepeater s)) : a.All fun t => t.i2cOpen = b → s.i2cOpen = b := by
    cases a with
    | fault x => trivial
    | _ => exact fun ht => h.symm.trans ht
  cases f with
  | openI2CDone =>
    cases b with
    | true => exact absurd rfl hf
    | false => exact nofun
  | closeI2CDone =>
    cases b with
    | true => exact nofun
    | false => exact absurd rfl hf
  | enter op => exact hsame (enterOp_i2cOpen op s)
  | _ =>
    have hs : SameRepeater s s := rfl
    refine hsame ?_
    simp only [resume, returnDecoded, loopWriteEach, loopSetMux, loopTunerBatch, loopTunerClose, loopTunerInit,
      afterSetPllDivider, afterGetPllLockRead, afterCalibrateSynth, afterCalibrateStatus, afterOpenProbed]
    repeat' split
    all_goals first | exact hs | trivial | exact Stop.act_all _ _ hs _ | exact stopUnknown_all _ hs

theorem repeaterDone_ne_enter (b : Bool) (op : Op) : repeaterDone b ≠ .enter op := by cases b <;> nofun

/-- A repeater operation has two positions: its first statement, and the one after its write. -/
theorem eq_of_kind_repeaterDone (h : (repeaterDone b).kind = f.kind) :
    f = .enter (repeaterOp b) ∨ f = repeaterDone b := by
  cases b
  all_goals cases f with
    | enter op => cases op <;> first | exact .inl rfl | cases h
    | _ => first | exact .inr rfl | cases h

/-- A frame that waits at the end of a repeater operation has just been pushed under that operation's write. -/
theorem call_repeaterDone (h : resume f v s = .call op (repeaterDone b) u) : op = repeaterWrite b := by
  have hw := resume_within f v s
  rw [h] at hw
  rcases eq_of_kind_repeaterDone hw.1 with rfl | rfl
  · cases b <;> (cases h; rfl)
  · cases b <;> cases h

/-- The first statements of the repeater write end in its transfer. -/
theorem repeaterWrite_issues (b : Bool) (s : State) : ∃ p k, enterOp (repeaterWrite b) s = .prim p k s := by
  cases b <;> exact ⟨_, _, rfl⟩

end Statements

/-! ### Along a step -/

section Runs

variable {s t u : State} {b : Bool}

/-- A step that has started with no repeater operation at its end: none is there yet, or its write comes first. -/
def BeforeRepeater (b : Bool) (s : State) : Prop :=
  repeaterDone b ∉ s.frames ∨ ∃ fs, s.frames = .enter (repeaterWrite b) :: repeaterDone b :: fs

theorem transact_i2cOpen (p : Primitive) (s : State) : (transact p s).i2cOpen = s.i2cOpen := by
  rcases transact_cases p s with ⟨v, ht⟩ | ⟨e, ht⟩ <;> simp [ht]

/-- What follows a run of statements leaves the flag to it. -/
theorem move_i2cOpen {a : Act} (h : a.All fun u => u.i2cOpen = b → s.i2cOpen = b)
    (hm : a.move = .more t ∨ a.move = .done t) : t.i2cOpen = b → s.i2cOpen = b := by
  cases a with
  | prim p k u =>
    obtain rfl : transact p { u with frames := k :: u.frames } = t := by simpa [Act.move] using hm
    rw [transact_i2cOpen]
    exact h
  | call op k u =>
    obtain rfl : { u with frames := .enter op :: k :: u.frames, latch := .unit } = t := by simpa [Act.move] using hm
    exact h
  | ret v u =>
    simp only [Act.move, returnValue] at hm
    split at hm
    · obtain rfl : respond v u = t := by simpa using hm
      exact h
    · obtain rfl : { u with latch := v } = t := by simpa using hm
      exact h
  | raise e u =>
    obtain rfl : errorEntry e u = t := by simpa [Act.move] using hm
    exact h
  | fault x => simp [Act.move] at hm

theorem micro_i2cOpen (hb : BeforeRepeater b s) (hm : micro s = .more t ∨ micro s = .done t) :
    t.i2cOpen = b → s.i2cOpen = b := by
  unfold micro at hm
  split at hm
  · obtain rfl : s = t := by simpa using hm
    exact id
  · rename_i f fs hf
    have hne : f ≠ repeaterDone b := by
      rcases hb with hnot | ⟨gs, hgs⟩
      · exact fun h => hnot (by simp [hf, h])
      · rw [hf] at hgs
        cases hgs
        exact (repeaterDone_ne_enter b _).symm
    exact move_i2cOpen (resume_i2cOpen hne s.latch { s with frames := fs }) hm

/-- A run of statements that goes on has called an operation, or returned to the frame below. -/
theorem micro_more_cases (h : micro s = .more t) : ∃ f fs, s.frames = f :: fs ∧
    ((∃ op k u, resume f s.latch { s with frames := fs } = .call op k u ∧ t.frames = .enter op :: k :: fs) ∨
      ∃ v u, resume f s.latch { s with frames := fs } = .ret v u ∧ t.frames = fs) := by
  unfold micro at h
  split at h
  · cases h
  · rename_i f fs hf
    have hk := resume_kept f s.latch { s with frames := fs }
    refine ⟨f, fs, hf, ?_⟩
    generalize resume f s.latch { s with frames := fs } = a at h hk ⊢
    cases a with
    | call op k u =>
      cases h
      exact .inl ⟨op, k, u, rfl, by rw [hk.frames]⟩
    | ret v u =>
      simp only [Act.move, returnValue] at h
      split at h
      · cases h
      · cases h
        exact .inr ⟨v, u, rfl, hk.frames⟩
    | prim p k u => cases h
    | raise e u => cases h
    | fault x => cases h

/-- A step that goes on still has the repeater write before it, which ends the step. -/
theorem micro_beforeRepeater (hb : BeforeRepeater b s) (hm : micro s = .more t) : BeforeRepeater b t := by
  obtain ⟨f, fs, hf, hrun⟩ := micro_more_cases hm
  rcases hb with hnot | ⟨gs, hgs⟩
  · rw [hf, List.mem_cons, not_or] at hnot
    rcases hrun with ⟨op, k, u, hcall, ht⟩ | ⟨v, u, -, ht⟩
    · by_cases hwait : k = repeaterDone b
      · subst hwait
        rw [call_repeaterDone hcall] at ht
        exact .inr ⟨fs, ht⟩
      · exact .inl (by simp [ht, repeaterDone_ne_enter, Ne.symm hwait, hnot.2])
    · exact .inl (ht ▸ hnot.2)
  · rw [hf] at hgs
    cases hgs
    obtain ⟨p, k, hp⟩ := repeaterWrite_issues b { s with frames := repeaterDone b :: gs }
    rcases hrun with ⟨_, _, _, hcall, -⟩ | ⟨_, _, hret, -⟩
    · cases hp.symm.trans hcall
    · cases hp.symm.trans hret

theorem runMoves_i2cOpen {n : Nat} (hb : BeforeRepeater b s) (h : runMoves n s = .next t) :
    t.i2cOpen = b → s.i2cOpen = b := by
  induction n generalizing s with
  | zero => cases h; exact id
  | succ n ih =>
    simp only [runMoves] at h
    split at h
    · rename_i u hu
      exact fun ht => micro_i2cOpen hb (.inl hu) (ih (micro_beforeRepeater hb hu) h ht)
    · rename_i u hu; cases h; exact micro_i2cOpen hb (.inr hu)
    · cases h

/-- A step starts with the flag as it was, and waits nowhere it did not wait before. -/
theorem Starts.i2cOpen (h : Starts s u) (hb : repeaterDone b ∉ s.frames) :
    u.i2cOpen = s.i2cOpen ∧ repeaterDone b ∉ u.frames := by
  have hnext (cs : List WriteCommand) : repeaterDone b ≠ .writeEachNext cs := by cases b <;> nofun
  cases h with
  | resume hf e => subst e; exact ⟨rfl, hb⟩
  | record op c cs fs ho hf e =>
    subst e
    rw [hf] at hb
    exact ⟨rfl, by simpa [repeaterDone_ne_enter, hnext] using hb⟩
  | internal r rest op i hf hc hd hx hl e => subst e; exact ⟨rfl, by simp [repeaterDone_ne_enter]⟩
  | external r rest op i hf hc hd hi hx hq e => subst e; exact ⟨rfl, by simp [repeaterDone_ne_enter]⟩

/-- A step moves the flag to `b` only from the end of the operation that does so (R23 a). -/
theorem repeaterDone_mem_of_step (hi : s.inflight = none) (h : step s = .next t) (hs : s.i2cOpen ≠ b)
    (ht : t.i2cOpen = b) : repeaterDone b ∈ s.frames := by
  by_contra hb
  obtain ⟨-, ⟨rfl, -⟩ | ⟨u, hu, hrun⟩⟩ := step_starts hi h
  · exact hs ht
  · obtain ⟨hsame, hbu⟩ := hu.i2cOpen hb
    exact hs (hsame ▸ runMoves_i2cOpen (.inl hbu) hrun ht)

end Runs

/-- Settles O21: the two commands by their demodulator write, and the flag by what a step can do to it. -/
theorem repeaterCommandsComplete : Obligations.RepeaterCommandsComplete := by
  refine ⟨fun s x y hs => ⟨?_, ?_⟩, fun s t hi hstep => ⟨fun hs ht => ?_, fun hs ht => ?_⟩⟩
  · exact completes_of_scripted unitValue hs (directOpenI2C_ok (gives_scripted rfl))
  · exact completes_of_scripted unitValue hs (directCloseI2C_ok (gives_scripted rfl))
  · exact repeaterDone_mem_of_step (b := true) hi hstep (by simp [hs]) ht
  · exact repeaterDone_mem_of_step (b := false) hi hstep (by simp [hs]) ht

end Sys2Proof.Machine
end

section
/-! SUPPORT. The bit reversals of R81, bit by bit. -/

namespace Sys2Proof.Machine

/-- The nibble reversal sends bit `3 - i` to bit `i`. -/
theorem getLsbD_rev4 (x : BitVec 4) {i : Nat} (h : i < 4) : (rev4 x).getLsbD i = x.getLsbD (3 - i) := by
  simp only [rev4, BitVec.getLsbD_append, BitVec.getLsbD_extractLsb']
  interval_cases i <;> simp

/-- The reversal inside each nibble. -/
theorem getLsbD_bitrev_inPlace (b : Byte) {i : Nat} (h : i < 8) :
    (bitrev .inPlace b).getLsbD i = b.getLsbD (if i < 4 then 3 - i else 11 - i) := by
  simp only [bitrev, BitVec.getLsbD_append]
  split
  · rename_i hlow
    rw [getLsbD_rev4 _ hlow, BitVec.getLsbD_extractLsb']
    simp [show 3 - i < 4 by omega]
  · rw [getLsbD_rev4 _ (by omega), BitVec.getLsbD_extractLsb', show 4 + (3 - (i - 4)) = 11 - i by omega]
    simp [show 3 - (i - 4) < 4 by omega]

/-- The reversal of all eight bits: each nibble is reversed and the two change places. -/
theorem getLsbD_bitrev_fullByte (b : Byte) {i : Nat} (h : i < 8) :
    (bitrev .fullByte b).getLsbD i = b.getLsbD (7 - i) := by
  simp only [bitrev, BitVec.getLsbD_append]
  split
  · rename_i hlow
    rw [getLsbD_rev4 _ hlow, BitVec.getLsbD_extractLsb', show 4 + (3 - i) = 7 - i by omega]
    simp [show 3 - i < 4 by omega]
  · rw [getLsbD_rev4 _ (by omega), BitVec.getLsbD_extractLsb', show 0 + (3 - (i - 4)) = 7 - i by omega]
    simp [show 3 - (i - 4) < 4 by omega]

/-- Each reversal moves every bit to a place from which it moves back. -/
theorem bitrev_bitrev (m : BitrevMode) (b : Byte) : bitrev m (bitrev m b) = b := by
  refine BitVec.eq_of_getLsbD_eq fun i hi => ?_
  cases m with
  | inPlace =>
    rw [getLsbD_bitrev_inPlace _ hi, getLsbD_bitrev_inPlace _ (by split <;> omega)]
    congr 1
    grind
  | fullByte =>
    rw [getLsbD_bitrev_fullByte _ hi, getLsbD_bitrev_fullByte _ (by omega)]
    congr 1
    omega

/-- A byte put together from two nibbles. -/
theorem toNat_append_nibbles (x y : BitVec 4) : ((x ++ y : Byte)).toNat = 16 * x.toNat + y.toNat := by
  rw [BitVec.toNat_append, ← Nat.shiftLeft_add_eq_or_of_lt y.isLt, Nat.shiftLeft_eq]
  omega

/-- Settles O50: the sixteen nibbles, and the bytes bit by bit. -/
theorem bitReversal : Obligations.BitReversal :=
  ⟨by decide, bitrev_bitrev, fun b => toNat_append_nibbles (rev4 (b.extractLsb' 4 4)) (rev4 (b.extractLsb' 0 4)),
    fun b _ hi => getLsbD_bitrev_fullByte b hi⟩

end Sys2Proof.Machine
end

section
/-! SUPPORT. What an admissible configuration gives the tuner operations (R8): every masked write it names can be made, and
every status read stays in range. -/

namespace Sys2Proof.Machine

/-- Every masked write of a list names a shadowed register and a byte mask (R8 e). -/
def OkWrites (ws : List MaskedWrite) : Prop := ∀ w ∈ ws, okWrite w = true

/-- What R8 says of the parameters that the tuner operations read. -/
structure Admissible (c : Config) : Prop where
  initImage : ∀ v ∈ c.initImage, isByte v = true
  initElecPre : OkWrites c.initElecPre
  initElecPost : ∀ code, OkWrites (c.initElecPost.map (resolveItem code))
  setpllPre : OkWrites c.setpllPre
  calPre : OkWrites c.calPre
  calPost : OkWrites c.calPost
  autoGain : OkWrites c.autoGainWrites
  manualGainPre : OkWrites c.manualGainPre
  gain : ∀ step, OkWrites (gainWrites c step)
  standby : OkWrites (c.standbyTable.map fun p => ⟨p.reg, p.value, 0xFF⟩)
  standby_length : c.standbyTable.length = 11
  mux : ∀ e, OkWrites (muxWrites c.muxFields e)
  muxEntry : ∀ f : Int, 0 ≤ f → ∃ e, (muxIndex c.muxTable ((f : Rat) / 1000000)).bind (c.muxTable[·]?) = some e
  muxFields_length : c.muxFields.length = 4
  divider : ∀ v, okWrite ⟨c.divReg, v, c.divMask⟩ = true
  nisi : ∀ v, okWrite ⟨c.nisiReg, v, 0xFF⟩ = true
  fraction : ∀ v, okWrite ⟨c.fracReg, v, c.fracMask⟩ = true
  sdmHi : ∀ v, okWrite ⟨c.sdmHiReg, v, 0xFF⟩ = true
  sdmLo : ∀ v, okWrite ⟨c.sdmLoReg, v, 0xFF⟩ = true
  nudge : okWrite ⟨c.vcoselReg, c.vcoselVal, c.vcoselMask⟩ = true
  postlock : okWrite ⟨c.postlockReg, c.postlockVal, c.postlockMask⟩ = true
  fineTune_length : 1 ≤ c.ftLen
  fineTune : c.ftAddr + c.ftLen ≤ 0x20
  lock : c.lockAddr + LOCK_LEN ≤ 0x20
  calibration : c.calAddr + CAL_LEN ≤ 0x20

theorem okWrite_iff (w : MaskedWrite) : okWrite w = true ↔ okReg w.addr = true ∧ isByte w.mask = true := by
  simp only [okWrite, Bool.and_eq_true]

/-- A list item names the register and the mask of its masked write, whatever the code (R84). -/
theorem okWrite_resolveItem (code : Int) (t : TunerItem) : okWrite (resolveItem code t) = okItem t := by
  cases t <;> rfl

/-- The multiplexer's writes are to its fields (R90). -/
theorem okWrites_muxWrites {fields : List RegField} (hreg : ∀ f ∈ fields, okReg f.reg = true)
    (hmask : ∀ f ∈ fields, isByte f.mask = true) (e : MuxEntry) : OkWrites (muxWrites fields e) := by
  intro w hw
  obtain ⟨j, hj, rfl⟩ := List.getElem_of_mem hw
  simp only [muxWrites, List.getElem_zipWith, okWrite_iff]
  exact ⟨hreg _ (List.getElem_mem _), hmask _ (List.getElem_mem _)⟩

/-- A table that starts at threshold 0 has an entry for every frequency from 0 on (R89). -/
theorem exists_muxEntry {table : List MuxEntry} {mhz : Rat} {e : MuxEntry} (h : table[0]? = some e)
    (hle : e.threshold ≤ mhz) : ∃ e', (muxIndex table mhz).bind (table[·]?) = some e' := by
  obtain ⟨hpos, -⟩ := List.getElem?_eq_some_iff.1 h
  cases hj : muxIndex table mhz with
  | none =>
    rw [muxIndex, List.getLast?_eq_none_iff, List.filter_eq_nil_iff] at hj
    exact absurd (by simpa only [h, decide_eq_true_eq] using hle) (hj 0 (List.mem_range.2 hpos))
  | some j =>
    have hlt : j < table.length := List.mem_range.1 (List.mem_of_mem_filter (List.mem_of_getLast? hj))
    exact ⟨table[j], List.getElem?_eq_getElem hlt⟩

/-- R8 (b), of the first entry. -/
theorem threshold_of_okMuxTable {c : Config} (h : okMuxTable c = true) : ∃ e, c.muxTable[0]? = some e ∧ e.threshold = 0 := by
  simp only [okMuxTable, Bool.and_eq_true] at h
  obtain ⟨⟨hfirst, -⟩, -⟩ := h
  cases htable : c.muxTable with
  | nil => rw [htable] at hfirst; cases hfirst
  | cons e rest =>
    rw [htable] at hfirst
    exact ⟨e, rfl, of_decide_eq_true hfirst⟩

theorem admissible_of_wellFormed {c : Config} (h : Config.wellFormed c = true) : Admissible c := by
  simp only [Config.wellFormed, Bool.and_eq_true] at h
  obtain ⟨⟨⟨⟨⟨⟨⟨⟨⟨⟨himage, htable⟩, hfields⟩, hstandby⟩, hregs⟩, hmasks⟩, -⟩, hbyte⟩, hreads⟩, -⟩, -⟩ := h
  simp only [okInitImage, okMuxFields, okStandbyTable, okFtByte, okStatusReads, Bool.and_eq_true, beq_iff_eq,
    List.all_eq_true, decide_eq_true_eq] at himage hfields hstandby hbyte hreads
  simp only [okRegisters, Bool.and_eq_true, List.all_eq_true] at hregs
  simp only [okMasks, Bool.and_eq_true, List.all_eq_true] at hmasks
  obtain ⟨⟨⟨⟨⟨⟨⟨⟨⟨⟨⟨⟨⟨⟨⟨⟨⟨hpre, hpost⟩, hset⟩, hcalPre⟩, hcalPost⟩, hauto⟩, hmanual⟩, hrows⟩, hmux⟩, hdiv⟩, hnisi⟩, hfrac⟩,
    hhi⟩, hlo⟩, hsel⟩, hlock⟩, hlna⟩, hmix⟩ := hregs
  obtain ⟨⟨⟨⟨⟨⟨mmux, mdiv⟩, mfrac⟩, msel⟩, mlock⟩, mlna⟩, mmix⟩ := hmasks
  obtain ⟨-, himage⟩ := himage
  obtain ⟨⟨htune, hlockRead⟩, hcalRead⟩ := hreads
  obtain ⟨first, hfirst, hzero⟩ := threshold_of_okMuxTable htable
  have whole : isByte 0xFF = true := rfl
  exact {
    initImage := himage
    initElecPre := hpre
    initElecPost := fun code => by
      simpa only [OkWrites, List.forall_mem_map, okWrite_resolveItem] using hpost
    setpllPre := hset
    calPre := hcalPre
    calPost := hcalPost
    autoGain := hauto
    manualGainPre := hmanual
    gain := fun step => by
      simp only [OkWrites, gainWrites, List.forall_mem_cons, okWrite_iff, hlna, mlna, hmix, mmix, and_self, true_and]
      exact List.forall_mem_nil _
    standby := by
      simpa only [OkWrites, List.forall_mem_map, okWrite_iff, whole, and_true] using hrows
    standby_length := hstandby
    mux := okWrites_muxWrites hmux mmux
    muxEntry := fun f hf => exists_muxEntry hfirst (by rw [hzero]; positivity)
    muxFields_length := hfields
    divider := fun v => (okWrite_iff _).2 ⟨hdiv, mdiv⟩
    nisi := fun v => (okWrite_iff _).2 ⟨hnisi, whole⟩
    fraction := fun v => (okWrite_iff _).2 ⟨hfrac, mfrac⟩
    sdmHi := fun v => (okWrite_iff _).2 ⟨hhi, whole⟩
    sdmLo := fun v => (okWrite_iff _).2 ⟨hlo, whole⟩
    nudge := (okWrite_iff _).2 ⟨hsel, msel⟩
    postlock := (okWrite_iff _).2 ⟨hlock, mlock⟩
    fineTune_length := by omega
    fineTune := htune
    lock := hlockRead
    calibration := hcalRead }

theorem Ready.admissible {s : State} (h : Ready s) : Admissible s.cfg := by
  obtain ⟨hconf, -, -⟩ := h
  rw [configured, Bool.and_eq_true] at hconf
  exact admissible_of_wellFormed hconf.1

theorem ReadyInternal.admissible {s : State} (h : ReadyInternal s) : Admissible s.cfg := by
  obtain ⟨hready, -, -⟩ := h
  exact hready.admissible

theorem inRange_iff (lo hi v : Int) : inRange lo hi v = true ↔ lo ≤ v ∧ v ≤ hi := by
  simp only [inRange, Bool.and_eq_true, decide_eq_true_eq]

/-- A shadowed register has a cell (R20). -/
theorem shadowIndex_of_okReg {a : Int} (h : okReg a = true) : ∃ i, shadowIndex a = some i := by
  obtain ⟨hlo, hhi⟩ := (inRange_iff ..).1 h
  exact ⟨_, dif_pos ⟨hlo, hhi⟩⟩

/-- A shadowed register is a byte. -/
theorem isByte_of_shadowIndex {a : Int} {i : Fin 27} (h : shadowIndex a = some i) : isByte a = true := by
  have ha := shadowIndex_eq_some.1 h
  exact (inRange_iff ..).2 ⟨by omega, by omega⟩

end Sys2Proof.Machine
end

section
/-! SUPPORT. The masked writes of the tuner in direct style (R83, R84): under a transport that answers, a list of them
completes, leaves the shadow bank it gives and touches nothing else; and the proofs about the commands that are such
lists. -/

namespace Sys2Proof.Machine

/-! ### One masked write -/

section MaskedWrites

variable {O : Transport} {r : Run} {w : MaskedWrite} {i : Fin 27} {old : Byte} {as : List Answer} {ps : List Primitive}

/-- The transport gives one answer to each primitive. -/
theorem Gives.length_eq (h : Gives O r ps as) : as.length = ps.length := by
  induction ps generalizing r as with
  | nil =>
    cases as with
    | nil => rfl
    | cons a as => cases h
  | cons p ps ih =>
    cases as with
    | nil => cases h
    | cons a as =>
      obtain ⟨-, htail⟩ := h
      exact congrArg (· + 1) (ih htail)

/-- A register write through the I2C proxy takes `W` primitives (R157). -/
theorem i2cWritePrims_length (c : Config) (dev reg : Int) (d : List Byte) :
    (i2cWritePrims c dev reg d).length = writeCount c := by
  cases hform : c.i2cWriteForm with
  | twoPhase => simp only [i2cWritePrims, writeCount, hform, List.length_cons, List.length_nil]
  | combined => simp only [i2cWritePrims, writeCount, hform, List.length_cons, List.length_nil]

/-- A masked write merges the cell, sets it and sends the same byte (R83). -/
theorem directMasked_ok (ht : r.state.tunerPresent = true) (ho : r.state.i2cOpen = true)
    (hi : shadowIndex w.addr = some i) (hold : r.state.shadow[i] = some old) (hm : isByte w.mask = true)
    (h : Gives O (r.write (setShadow r.state i (maskMerge old (byteOf w.value) (byteOf w.mask))))
      (i2cWritePrims r.state.cfg 0x34 w.addr [maskMerge old (byteOf w.value) (byteOf w.mask)]) as) (hok : AllOk as) :
    directMasked O w r = .ok ()
      ((r.write (setShadow r.state i (maskMerge old (byteOf w.value) (byteOf w.mask)))).sent
        (i2cWritePrims r.state.cfg 0x34 w.addr [maskMerge old (byteOf w.value) (byteOf w.mask)]) as) := by
  simp only [directMasked, directTuner, ht, hi, hm, hold, ho, if_true]
  generalize maskMerge old (byteOf w.value) (byteOf w.mask) = n at h ⊢
  have hwrite := directWriteI2CReg_ok (r := r.write (setShadow r.state i n)) (O := O) (d := 0x34) (a := w.addr)
    (v := n.toNat) (as := as) ho rfl (isByte_of_shadowIndex hi) (isByte_toNat n)
  rw [byteOf_natCast_toNat] at hwrite
  exact hwrite h hok

/-- The cell a masked write sets in the closed form (R83). -/
theorem maskCell_of_shadowIndex {bank : Vector (Option Byte) 27} (hi : shadowIndex w.addr = some i)
    (hold : bank[i] = some old) :
    maskCell bank w = bank.set i (some (maskMerge old (byteOf w.value) (byteOf w.mask))) := by
  simp only [maskCell, hi, hold]

end MaskedWrites

/-- Settles O26: the merged byte in the cell and in the one register write. -/
theorem maskedWriteCompletes : Obligations.MaskedWriteCompletes := by
  intro s a v m i old as hs ⟨ht, ho⟩ hi hold hm hok n hlen
  have hrun := directMasked_ok (r := Run.start s) (w := ⟨a, v, m⟩) ht ho hi hold hm (gives_scripted hlen.symm) hok
  exact completes_of_scripted unitValue hs hrun

/-! ### Where a tuner operation stands -/

/-- An operation ends with a result, in a position that satisfies `P`. -/
def Result.Yields {α : Type} (x : Result α) (P : α → Run → Prop) : Prop := ∃ v r, x = .ok v r ∧ P v r

/-- A tuner operation can run from `r` (R79, R20): `k` primitives have been answered, and the operations to come read the
configuration `c` and the crystal frequency `x`. -/
structure At (c : Config) (x : Rat) (k : Nat) (r : Run) : Prop where
  cfg : r.state.cfg = c
  crystal : crystal r.state = x
  ready : TunerReady r.state
  answered : r.answers.length = k

/-- From `r` to `r1` the masked writes `ws` have been made, with `n` primitives, status reads among them. -/
structure Made (r : Run) (ws : List MaskedWrite) (n : Nat) (r1 : Run) : Prop where
  frame : SameButTuning r.state r1.state
  shadow : r1.state.shadow = maskCells r.state.shadow ws
  count : r1.answers.length = r.answers.length + n

/-- As `Made`, with no change to the lock flag and the tuning state. -/
structure Wrote (r : Run) (ws : List MaskedWrite) (n : Nat) (r1 : Run) : Prop extends Made r ws n r1 where
  hasLock : r1.state.hasLock = r.state.hasLock
  pllState : r1.state.pllState = r.state.pllState

section Positions

variable {α β : Type} {O : Transport} {c : Config} {x : Rat} {k m n a : Nat} {r r1 r2 : Run}
  {ws vs : List MaskedWrite} {w : MaskedWrite}

theorem yields_ok {v : α} {P : α → Run → Prop} (h : P v r) : (Result.ok v r).Yields P := ⟨v, r, rfl, h⟩

theorem yields_andThen {y : Result α} {g : α → Run → Result β} {P : α → Run → Prop} {Q : β → Run → Prop}
    (hy : y.Yields P) (hg : ∀ v r, P v r → (g v r).Yields Q) : (y.andThen g).Yields Q := by
  obtain ⟨v, r, rfl, hP⟩ := hy
  exact hg v r hP

theorem Result.Yields.mono {y : Result α} {P Q : α → Run → Prop} (hy : y.Yields P) (h : ∀ v r, P v r → Q v r) :
    y.Yields Q := by
  obtain ⟨v, r, he, hP⟩ := hy
  exact ⟨v, r, he, h v r hP⟩

theorem maskCells_append (bank : Vector (Option Byte) 27) (ws vs : List MaskedWrite) :
    maskCells bank (ws ++ vs) = maskCells (maskCells bank ws) vs := List.foldl_append ..

theorem maskCell_isSome {bank : Vector (Option Byte) 27} (h : ∀ i : Fin 27, bank[i].isSome = true) (w : MaskedWrite)
    (i : Fin 27) : (maskCell bank w)[i].isSome = true := by
  unfold maskCell
  split
  · exact h i
  split
  · exact h i
  · rw [Fin.getElem_fin, Vector.getElem_set]
    split
    · rfl
    · exact h i

/-- Masked writes leave no cell undefined (R20). -/
theorem maskCells_isSome {bank : Vector (Option Byte) 27} (h : ∀ i : Fin 27, bank[i].isSome = true)
    (ws : List MaskedWrite) (i : Fin 27) : (maskCells bank ws)[i].isSome = true := by
  induction ws generalizing bank with
  | nil => exact h i
  | cons w ws ih => exact ih (maskCell_isSome h w)

/-! ### Moving along -/

theorem Wrote.refl (r : Run) : Wrote r [] 0 r := ⟨⟨rfl, rfl, rfl⟩, rfl, rfl⟩

theorem Made.trans (h : Made r ws m r1) (h' : Made r1 vs n r2) : Made r (ws ++ vs) (m + n) r2 :=
  ⟨h.frame.trans h'.frame, by rw [h'.shadow, h.shadow, maskCells_append], by rw [h'.count, h.count, Nat.add_assoc]⟩

theorem Wrote.trans (h : Wrote r ws m r1) (h' : Wrote r1 vs n r2) : Wrote r (ws ++ vs) (m + n) r2 :=
  ⟨h.toMade.trans h'.toMade, h'.hasLock.trans h.hasLock, h'.pllState.trans h.pllState⟩

theorem Wrote.sameButShadow (h : Wrote r ws n r1) : SameButShadow r.state r1.state := by
  have hframe := h.frame
  rw [SameButTuning, h.hasLock, h.pllState] at hframe
  exact hframe

/-- What the operations to come rest on stays as it is. -/
theorem Made.after (h : Made r ws n r1) (hr : At c x k r) : At c x (k + n) r1 := by
  obtain ⟨hcfg, hcrystal, ⟨⟨htuner, hopen⟩, hfilled⟩, hcount⟩ := hr
  have hframe := h.frame
  refine ⟨hframe.cfg.trans hcfg, hframe.crystal.trans hcrystal, ⟨⟨?_, ?_⟩, fun i => ?_⟩, by rw [h.count, hcount]⟩
  · rw [hframe]; exact htuner
  · rw [hframe]; exact hopen
  · rw [h.shadow]; exact maskCells_isSome hfilled ws i

/-- Where a tuner operation can run, the tuner is present (R79). -/
theorem At.directTuner_eq (hr : At c x k r) (y : Result α) : directTuner r y = y := by
  obtain ⟨-, -, ⟨⟨htuner, -⟩, -⟩, -⟩ := hr
  exact if_pos htuner

/-! ### The operations that every other one is made of -/

theorem Faithful.masked_wrote (hO : Faithful O) (hr : At c x k r) (hw : okWrite w = true) :
    (directMasked O w r).Yields fun _ r1 => Wrote r [w] (writeCount c) r1 := by
  obtain ⟨rfl, -, ⟨⟨htuner, hopen⟩, hfilled⟩, -⟩ := hr
  obtain ⟨hreg, hmask⟩ := (okWrite_iff w).1 hw
  obtain ⟨i, hi⟩ := shadowIndex_of_okReg hreg
  obtain ⟨old, hold⟩ := Option.isSome_iff_exists.1 (hfilled i)
  obtain ⟨as, hgives, hok⟩ := hO.gives (r.write (setShadow r.state i _)) _
  refine ⟨_, _, directMasked_ok htuner hopen hi hold hmask hgives hok, ⟨⟨rfl, ?_, ?_⟩, rfl, rfl⟩⟩
  · exact (maskCell_of_shadowIndex hi hold).symm
  · simp only [Run.sent, Run.write, List.length_append, hgives.length_eq, i2cWritePrims_length]

/-- A list of masked writes (R84). -/
theorem Faithful.maskedAll_wrote (hO : Faithful O) (hr : At c x k r) (hws : OkWrites ws) :
    (directMaskedAll O ws r).Yields fun _ r1 => Wrote r ws (writeCount c * ws.length) r1 := by
  induction ws generalizing r k with
  | nil => exact yields_ok (.refl r)
  | cons w ws ih =>
    obtain ⟨hw, hrest⟩ := List.forall_mem_cons.1 hws
    refine yields_andThen (hO.masked_wrote hr hw) fun _ r1 h1 => (ih (h1.after hr) hrest).mono fun _ r2 h2 => ?_
    have h := h1.trans h2
    rwa [show writeCount c + writeCount c * ws.length = writeCount c * (w :: ws).length by
      rw [List.length_cons]; ring] at h

/-- A status read writes nothing and returns the buffer of its second primitive (R82). -/
theorem Faithful.readRegBuffer_wrote (hO : Faithful O) (hr : At c x k r) (hn : 1 ≤ n) (hend : a + n ≤ 0x20) :
    (directReadRegBuffer O a n r).Yields fun st r1 => st = statusAt O c n (k + 1) ∧ Wrote r [] 2 r1 := by
  obtain ⟨rfl, -, ⟨⟨htuner, hopen⟩, -⟩, rfl⟩ := hr
  obtain ⟨y, hy⟩ := hO.answers_ok r.answers.length (i2cWrite r.state.cfg 0x34 [byteOf a])
  obtain ⟨raw, hraw, hlen⟩ := hO.answers_ctrlIn (r.asked _ (.ok y)).answers.length (half 0x34) _ n
  refine ⟨_, _, directReadRegBuffer_ok (a := a) (n := n) htuner hopen (by omega) (by omega) (by omega) hlen
    ⟨hy, hraw, trivial⟩, ?_, ⟨⟨rfl, rfl, by simp [Run.sent]⟩, rfl, rfl⟩⟩
  have hread : O (r.answers.length + 1) (i2cRead r.state.cfg TUNER_I2C_ADDR n) = .ok raw := by
    simpa [Run.asked, i2cRead, TUNER_I2C_ADDR] using hraw
  rw [statusAt, hread]

end Positions

/-! ### The commands that are lists of masked writes -/

section Lists

variable {α : Type} {O : Transport} {i : Instr} {s : State} {ws vs : List MaskedWrite} {y : Result α}

/-- The position at the start of a command. -/
theorem at_start (h : TunerReady s) : At s.cfg (crystal s) 0 (Run.start s) := ⟨rfl, rfl, h, rfl⟩

/-- A command succeeds where its operation completes. -/
theorem succeeds_of_yields {P : Value → State → Prop} {Q : α → Run → Prop} (w : α → Value) (ha : Accepts i s)
    (hy : y.Yields Q) (hP : ∀ v r, Q v r → P (w v) r.state) (hd : direct O i (Run.start s) = y.map w := by rfl) :
    Succeeds O i s P := by
  obtain ⟨v, r, rfl, hQ⟩ := hy
  exact ⟨w v, r, hd, hP v r hQ, completes_of_direct ha hd⟩

/-- A command that writes a list leaves the shadow bank the list gives. -/
theorem succeeds_of_wrote {n : Nat} {y : Result Unit} (ha : Accepts i s)
    (hy : y.Yields fun _ r1 => Wrote (Run.start s) ws n r1)
    (hd : direct O i (Run.start s) = y.map unitValue := by rfl) :
    Succeeds O i s fun v t => v = .unit ∧ SameButShadow s t ∧ t.shadow = maskCells s.shadow ws :=
  succeeds_of_yields unitValue ha hy (fun _ _ h => ⟨rfl, h.sameButShadow, h.shadow⟩) hd

end Lists

section Operations

variable {O : Transport} {c : Config} {x : Rat} {k : Nat} {r : Run}

theorem Faithful.tunerClose_wrote (hO : Faithful O) (hc : Admissible c) (hr : At c x k r) :
    (directTunerClose O r).Yields fun _ r1 =>
      Wrote r (c.standbyTable.map fun p => ⟨p.reg, p.value, 0xFF⟩) (writeCount c * c.standbyTable.length) r1 := by
  have hall := hO.maskedAll_wrote hr hc.standby
  rw [List.length_map] at hall
  rwa [directTunerClose, hr.directTuner_eq, hr.cfg]

theorem Faithful.setAutoGain_wrote (hO : Faithful O) (hc : Admissible c) (hr : At c x k r) :
    (directSetAutoGain O r).Yields fun _ r1 => Wrote r c.autoGainWrites (writeCount c * c.autoGainWrites.length) r1 := by
  rw [directSetAutoGain, hr.directTuner_eq, hr.cfg]
  exact hO.maskedAll_wrote hr hc.autoGain

/-- The two fields of the gain follow the writes that turn the AGC off (R110). -/
theorem Faithful.setManualGain_wrote (hO : Faithful O) (hc : Admissible c) (hr : At c x k r) (g : Rat) :
    (directSetManualGain O g r).Yields fun _ r1 => Wrote r (c.manualGainPre ++ gainWrites c (gainStep c g))
      (writeCount c * c.manualGainPre.length + writeCount c * 2) r1 := by
  rw [directSetManualGain, hr.directTuner_eq, hr.cfg]
  refine yields_andThen (hO.maskedAll_wrote hr hc.manualGainPre) fun _ r1 h1 => ?_
  have hr1 := h1.after hr
  rw [hr1.cfg]
  exact (hO.maskedAll_wrote hr1 (hc.gain _)).mono fun _ r2 h2 => h1.trans h2

/-- The four fields of the entry the frequency selects (R90). -/
theorem Faithful.setMux_wrote (hO : Faithful O) (hc : Admissible c) (hr : At c x k r) {f : Int} (hf : 0 ≤ f) {e : MuxEntry}
    (he : (muxIndex c.muxTable ((f : Rat) / 1000000)).bind (c.muxTable[·]?) = some e) :
    (directSetMux O f r).Yields fun _ r1 =>
      Wrote r (muxWrites c.muxFields e) (writeCount c * (muxWrites c.muxFields e).length) r1 := by
  rw [directSetMux, hr.directTuner_eq, if_neg (not_lt.2 hf), hr.cfg, he]
  exact hO.maskedAll_wrote hr (hc.mux e)

end Operations

/-- Settles O28: each command by the masked writes of its operation. -/
theorem tunerListsComplete : Obligations.TunerListsComplete := by
  intro O s hs hready hO list
  have hc := hs.admissible
  have hstart := at_start hready
  refine ⟨succeeds_of_wrote hs (hO.tunerClose_wrote hc hstart), succeeds_of_wrote hs (hO.setAutoGain_wrote hc hstart),
    fun g => succeeds_of_wrote hs (hO.setManualGain_wrote hc hstart g), fun f n e hf hn he => ?_⟩
  exact succeeds_of_wrote hs (hO.setMux_wrote hc hstart hf (by rw [hn]; exact he))

end Sys2Proof.Machine
end

section
/-! SUPPORT. The synthesis, the calibration and the electronics of the tuner in direct style, each as its closed form says
(R86, R87, R92, R101, R103); and the proof that the two `init` commands complete. -/

namespace Sys2Proof.Machine

/-! ### Lock detection -/

/-- The masked write of the second lock attempt (R101). -/
def nudgeWrite (c : Config) : MaskedWrite := ⟨c.vcoselReg, c.vcoselVal, c.vcoselMask⟩

/-- `getPllLock(true)` whose first primitive is primitive `k` (R101): one status read, or the nudge and a second one where
the lock bit is clear. -/
def lockTuning (O : Transport) (c : Config) (k : Nat) : Tuning :=
  if lockBitSet (statusAt O c LOCK_LEN (k + 1)) then ⟨[], true, 2⟩
  else ⟨[nudgeWrite c], lockBitSet (statusAt O c LOCK_LEN (k + writeCount c + 3)), writeCount c + 4⟩

/-- From `r` to `r1` a tuning operation has done what `t` says, its last lock read included (R102). -/
structure Tuned (r : Run) (t : Tuning) (r1 : Run) : Prop extends Made r t.writes t.count r1 where
  hasLock : r1.state.hasLock = t.locked
  pllState : r1.state.pllState = if t.locked then .locked else .unlocked

section Tunings

variable {O : Transport} {c : Config} {x : Rat} {k m n : Nat} {r r1 r2 : Run} {ws : List MaskedWrite} {t : Tuning}

/-- What comes before a tuning operation. -/
theorem Made.tuned (h : Made r ws n r1) (h' : Tuned r1 t r2) : Tuned r ⟨ws ++ t.writes, t.locked, n + t.count⟩ r2 :=
  ⟨h.trans h'.toMade, h'.hasLock, h'.pllState⟩

/-- What comes after one, with no other lock read. -/
theorem Tuned.wrote (h : Tuned r t r1) (h' : Wrote r1 ws n r2) : Tuned r ⟨t.writes ++ ws, t.locked, t.count + n⟩ r2 :=
  ⟨h.toMade.trans h'.toMade, h'.hasLock.trans h.hasLock, h'.pllState.trans h.pllState⟩

/-- The lock flag and the tuning state are set with no primitive. -/
theorem Made.setLock (h : Made r ws n r1) (lock : Bool) (p : PllState) :
    Made r ws n (r1.write { r1.state with hasLock := lock, pllState := p }) := ⟨h.frame.trans rfl, h.shadow, h.count⟩

/-- One lock attempt reads the status and tests its lock bit (R101). -/
theorem Faithful.attempt_made (hO : Faithful O) (hc : Admissible c) (hr : At c x k r) (a : Attempt) :
    (directAttempt O a r).Yields fun locked r1 => locked = lockBitSet (statusAt O c LOCK_LEN (k + 1)) ∧ Made r [] 2 r1 := by
  have hstart : Made r [] 0 (r.write { r.state with pllState := attemptState a }) := ⟨rfl, rfl, rfl⟩
  rw [directAttempt, hr.cfg]
  refine yields_andThen (hO.readRegBuffer_wrote (hstart.after hr) (by decide) hc.lock) ?_
  rintro st r1 ⟨rfl, h1⟩
  exact yields_ok ⟨rfl, hstart.trans h1.toMade⟩

/-- The second attempt ends locked or unlocked (R101). -/
theorem Faithful.secondAttempt_tuned (hO : Faithful O) (hc : Admissible c) (hr : At c x k r) :
    (directSecondAttempt O r).Yields fun locked r1 =>
      locked = lockBitSet (statusAt O c LOCK_LEN (k + 1)) ∧
        Tuned r ⟨[], lockBitSet (statusAt O c LOCK_LEN (k + 1)), 2⟩ r1 := by
  refine yields_andThen (hO.attempt_made hc hr .second) ?_
  rintro locked r1 ⟨hlocked, h1⟩
  rw [← hlocked]
  cases locked with
  | true => exact yields_ok ⟨rfl, h1.setLock true .locked, rfl, rfl⟩
  | false => exact yields_ok ⟨rfl, h1.setLock false .unlocked, rfl, rfl⟩

theorem Faithful.getPllLock_tuned (hO : Faithful O) (hc : Admissible c) (hr : At c x k r) :
    (directGetPllLock O true r).Yields fun locked r1 =>
      locked = (lockTuning O c k).locked ∧ Tuned r (lockTuning O c k) r1 := by
  rw [directGetPllLock, hr.directTuner_eq, if_pos rfl]
  refine yields_andThen (hO.attempt_made hc hr .first) ?_
  rintro locked r1 ⟨hlocked, h1⟩
  rw [lockTuning, ← hlocked]
  cases locked with
  | true => exact yields_ok ⟨rfl, h1.setLock true .locked, rfl, rfl⟩
  | false =>
    have hr1 := h1.after hr
    simp only [Bool.false_eq_true, if_false, hr1.cfg]
    refine yields_andThen (hO.masked_wrote hr1 hc.nudge) fun _ r2 h2 => ?_
    refine (hO.secondAttempt_tuned hc (h2.after hr1)).mono fun v r3 ⟨hv, h3⟩ => ?_
    rw [show k + 2 + writeCount c + 1 = k + writeCount c + 3 by omega] at hv h3
    have h := (h1.trans h2.toMade).tuned h3
    rw [show 2 + writeCount c + 2 = writeCount c + 4 by omega] at h
    exact ⟨hv, h⟩

/-! ### One synthesis -/

/-- Steps 5 to 8 of `setPll` from primitive `k` on (R92): the four parameter writes, the lock and the post-lock write. -/
def synthesisTuning (O : Transport) (c : Config) (nint : Int) (vcoFra x : Rat) (k : Nat) : Tuning :=
  let t := lockTuning O c (k + writeCount c * 4)
  { writes := [⟨c.nisiReg, packNint nint, 0xFF⟩, ⟨c.fracReg, if vcoFra = 0 then c.fracValInt else c.fracValFrac, c.fracMask⟩,
      ⟨c.sdmHiReg, sigmaDelta vcoFra x / 256, 0xFF⟩, ⟨c.sdmLoReg, sigmaDelta vcoFra x % 256, 0xFF⟩]
      ++ t.writes ++ [⟨c.postlockReg, c.postlockVal, c.postlockMask⟩]
    locked := t.locked
    count := writeCount c * 5 + t.count }

theorem Faithful.synthesize_tuned (hO : Faithful O) (hc : Admissible c) (hr : At c x k r) (mixDiv : Rat) (nint : Int)
    (vcoFra : Rat) : (directSynthesize O mixDiv nint vcoFra r).Yields fun v r1 =>
      v = achievedFrequency x mixDiv nint (sigmaDelta vcoFra x) ∧ Tuned r (synthesisTuning O c nint vcoFra x k) r1 := by
  simp only [directSynthesize, hr.cfg, hr.crystal]
  refine yields_andThen (hO.masked_wrote hr (hc.nisi _)) fun _ r1 h1 => ?_
  have hr1 := h1.after hr
  refine yields_andThen (hO.masked_wrote hr1 (hc.fraction _)) fun _ r2 h2 => ?_
  have hr2 := h2.after hr1
  refine yields_andThen (hO.masked_wrote hr2 (hc.sdmHi _)) fun _ r3 h3 => ?_
  have hr3 := h3.after hr2
  refine yields_andThen (hO.masked_wrote hr3 (hc.sdmLo _)) fun _ r4 h4 => ?_
  have hr4 := h4.after hr3
  refine yields_andThen (hO.getPllLock_tuned hc hr4) fun _ r5 ⟨_, h5⟩ => ?_
  refine yields_andThen (hO.masked_wrote (h5.after hr4) hc.postlock) fun _ r6 h6 => yields_ok ⟨rfl, ?_⟩
  rw [show k + writeCount c + writeCount c + writeCount c + writeCount c = k + writeCount c * 4 by ring] at h5
  have h := ((((h1.trans h2).trans h3).trans h4).toMade.tuned h5).wrote h6
  rwa [show writeCount c + writeCount c + writeCount c + writeCount c + (lockTuning O c (k + writeCount c * 4)).count
    + writeCount c = writeCount c * 5 + (lockTuning O c (k + writeCount c * 4)).count by ring] at h

/-- `setPll` is its divider write, and then its synthesis or the unreachable case (R92, R96). -/
theorem pllTuning_eq (O : Transport) (c : Config) (f : Int) (x : Rat) (k : Nat) :
    pllTuning O c f x k =
      let before := writeCount c * (c.setpllPre.length + 1) + 2
      let divider := pllDividerWrites c f (statusAt O c c.ftLen (k + writeCount c * c.setpllPre.length + 1))
      let t := synthesisTuning O c (nintOf f x) (vcoFraOf f x) x (k + before)
      if NINT_MAX < nintOf f x then ⟨divider, false, before⟩ else ⟨divider ++ t.writes, t.locked, before + t.count⟩ := by
  simp only [pllTuning, synthesisTuning, lockTuning, pllSynthesisWrites, sdmOf, nudgeWrite]
  split
  · rfl
  · rw [show k + (writeCount c * (c.setpllPre.length + 1) + 2) + writeCount c * 4 + 1 =
        k + writeCount c * (c.setpllPre.length + 5) + 3 by ring,
      show k + (writeCount c * (c.setpllPre.length + 1) + 2) + writeCount c * 4 + writeCount c + 3 =
        k + writeCount c * (c.setpllPre.length + 6) + 5 by ring]
    split
    · simp only [Tuning.mk.injEq, List.append_assoc, List.nil_append, Bool.false_eq_true, if_false, true_and]
      ring
    · simp only [Tuning.mk.injEq, List.append_assoc, if_true, true_and]
      ring

/-- The value `setPll` returns (R92, R96, R99). -/
def pllResult (f : Int) (x : Rat) : Rat := if NINT_MAX < nintOf f x then 0 else achievedOf f x

/-- Steps 1 to 3 of `setPll` (R92 to R94): what is left is the choice of the parameters, after the divider write. -/
theorem Faithful.setPll_parameters (hO : Faithful O) (hc : Admissible c) (hr : At c x k r) {f : Int} (hf : tunable f = true) :
    ∃ r1, directSetPll O f r = directParameters O f (mixDivOf (dividerExponent f)) r1 ∧
      Wrote r (pllDividerWrites c f (statusAt O c c.ftLen (k + writeCount c * c.setpllPre.length + 1)))
        (writeCount c * (c.setpllPre.length + 1) + 2) r1 := by
  obtain ⟨_, r1, hpre, h1⟩ := hO.maskedAll_wrote hr hc.setpllPre
  have hr1 := h1.after hr
  obtain ⟨st, r2, hread, hst, h2⟩ := hO.readRegBuffer_wrote hr1 hc.fineTune_length hc.fineTune
  obtain ⟨_, r3, hdiv, h3⟩ := hO.masked_wrote (h2.after hr1) (hc.divider (dividerByte c (dividerExponent f) st))
  refine ⟨r3, ?_, ?_⟩
  · rw [directSetPll, hr.directTuner_eq, if_pos hf]
    simp only [hr.cfg, hpre, hread, hdiv, Result.andThen]
  · have h := (h1.trans h2).trans h3
    rwa [hst, List.append_nil, show writeCount c * c.setpllPre.length + 2 + writeCount c =
      writeCount c * (c.setpllPre.length + 1) + 2 by ring] at h

/-- Step 4 of `setPll`: the integer divisor is above its range, below it, or one that is synthesized (R95, R96). -/
theorem directParameters_eq (O : Transport) (f : Int) (r : Run) :
    directParameters O f (mixDivOf (dividerExponent f)) r =
      if NINT_MAX < nintOf f (crystal r.state) then
        .ok 0 (r.write { r.state with hasLock := false, pllState := .unlocked })
      else if nintOf f (crystal r.state) < NINT_BASE then .fault .nintBelowRange r
      else directSynthesize O (mixDivOf (dividerExponent f)) (nintOf f (crystal r.state))
        (vcoFraOf f (crystal r.state)) r := rfl

theorem Faithful.setPll_tuned (hO : Faithful O) (hc : Admissible c) (hr : At c x k r) {f : Int} (hf : tunable f = true)
    (hn : NINT_BASE ≤ nintOf f x) :
    (directSetPll O f r).Yields fun v r1 => v = pllResult f x ∧ Tuned r (pllTuning O c f x k) r1 := by
  obtain ⟨r1, hpll, h1⟩ := hO.setPll_parameters hc hr hf
  have hr1 := h1.after hr
  rw [hpll, directParameters_eq, hr1.crystal, if_neg (not_lt.2 hn), pllTuning_eq, pllResult]
  split
  · exact yields_ok ⟨rfl, h1.toMade.setLock false .unlocked, rfl, rfl⟩
  · exact (hO.synthesize_tuned hc hr1 _ _ _).mono fun v r2 ⟨hv, h2⟩ => ⟨hv, h1.toMade.tuned h2⟩

/-! ### Calibration -/

/-- A pass that locks returns the code of its status read (R103). -/
theorem Faithful.calibrationPass_tuned (hO : Faithful O) (hc : Admissible c) (hr : At c x k r)
    (hn : NINT_BASE ≤ nintOf CAL_FREQ x) (hlock : (calibrationPass O c x k).locked = true) :
    (directCalibrationPass O r).Yields fun v r1 =>
      v = (calibrationPass O c x k).code ∧ Tuned r (calibrationPass O c x k).toTuning r1 := by
  rw [directCalibrationPass, hr.cfg]
  refine yields_andThen (hO.maskedAll_wrote hr hc.calPre) fun _ r1 h1 => ?_
  have hr1 := h1.after hr
  refine yields_andThen (hO.setPll_tuned hc hr1 (by decide) hn) fun _ r2 ⟨_, h2⟩ => ?_
  have hr2 := h2.after hr1
  rw [if_pos (h2.hasLock.trans hlock), hr2.cfg]
  refine yields_andThen (hO.maskedAll_wrote hr2 hc.calPost) fun _ r3 h3 => ?_
  have hr3 := h3.after hr2
  rw [hr3.cfg]
  refine yields_andThen (hO.readRegBuffer_wrote hr3 (by decide) hc.calibration) ?_
  rintro st r4 ⟨rfl, h4⟩
  refine yields_ok ⟨?_, ?_⟩
  · simp only [Calibration.code, calibrationPass, Nat.add_assoc]
  · have h := (h1.toMade.tuned h2).wrote (h3.trans h4)
    simpa only [calibrationPass, List.append_nil, Nat.add_assoc] using h

/-- A second pass follows a first one that reads a code other than 0 (R103). -/
theorem Faithful.calibrateFilter_tuned (hO : Faithful O) (hc : Admissible c) (hr : At c x k r)
    (hn : NINT_BASE ≤ nintOf CAL_FREQ x) {first : Bool} (hlock : (calibration O c x first k).locked = true) :
    (directCalibrateFilter O first r).Yields fun v r1 =>
      v = (calibration O c x first k).code ∧ Tuned r (calibration O c x first k).toTuning r1 := by
  have hone : (calibrationPass O c x k).locked = true := by
    by_contra hnot
    rw [calibration, if_neg fun h => hnot h.1] at hlock
    exact hnot hlock
  rw [directCalibrateFilter, hr.directTuner_eq]
  refine yields_andThen (hO.calibrationPass_tuned hc hr hn hone) ?_
  rintro v r1 ⟨rfl, h1⟩
  unfold calibration at hlock ⊢
  simp only [hone, true_and] at hlock ⊢
  split
  · rename_i hagain
    rw [if_pos hagain] at hlock
    exact (hO.calibrationPass_tuned hc (h1.after hr) hn hlock).mono fun v r2 ⟨hv, h2⟩ => ⟨hv, h1.toMade.tuned h2⟩
  · exact yields_ok ⟨rfl, h1⟩

/-! ### Bring-up of the tuner -/

theorem Faithful.initElectronics_tuned (hO : Faithful O) (hc : Admissible c) (hr : At c x k r)
    (hn : NINT_BASE ≤ nintOf CAL_FREQ x) (hlock : (electronics O c x k).locked = true) :
    (directInitElectronics O r).Yields fun _ r1 => Tuned r (electronics O c x k).toTuning r1 := by
  rw [directInitElectronics, hr.directTuner_eq, hr.cfg]
  refine yields_andThen (hO.maskedAll_wrote hr hc.initElecPre) fun _ r1 h1 => ?_
  have hr1 := h1.after hr
  refine yields_andThen (hO.calibrateFilter_tuned hc hr1 hn hlock) ?_
  rintro code r2 ⟨rfl, h2⟩
  have hr2 := h2.after hr1
  rw [hr2.cfg]
  refine (hO.maskedAll_wrote hr2 (hc.initElecPost _)).mono fun _ r3 h3 => ?_
  have h := (h1.toMade.tuned h2).wrote h3
  rwa [List.length_map] at h

end Tunings

/-! ### The image -/

section Image

variable {O : Transport} {c : Config} {r r1 : Run} {is : List (Fin 27)}

/-- The byte of the image for a cell (R86). -/
def imageByte (c : Config) (i : Fin 27) : Byte := byteOf (c.initImage.getD i 0)

/-- From `r` to `r1` the image has been written to the cells `is` and to their registers (R86). -/
structure Imaged (c : Config) (r : Run) (is : List (Fin 27)) (r1 : Run) : Prop where
  frame : SameButShadow r.state r1.state
  cells : ∀ i : Fin 27, r1.state.shadow[i] = if i ∈ is then some (imageByte c i) else r.state.shadow[i]
  count : r1.answers.length = r.answers.length + is.length * writeCount c

theorem isByte_image (hc : Admissible c) (i : Nat) : isByte (c.initImage.getD i 0) = true := by
  rw [List.getD_eq_getElem?_getD]
  cases h : c.initImage[i]? with
  | none => rfl
  | some v => exact hc.initImage v (List.mem_of_getElem? h)

/-- One byte of the image: the cell is set and the byte is sent (R86). -/
theorem Faithful.imageByte_imaged (hO : Faithful O) (hc : Admissible c) (hcfg : r.state.cfg = c)
    (ho : r.state.i2cOpen = true) (i : Fin 27) :
    (directWriteI2CReg O TUNER_I2C_ADDR (SHADOW_LO + i) (c.initImage.getD i 0)
      (r.write (setShadow r.state i (imageByte c i)))).Yields fun _ r1 => Imaged c r [i] r1 := by
  have hi : shadowIndex (SHADOW_LO + i) = some i := shadowIndex_eq_some.2 rfl
  obtain ⟨as, hgives, hok⟩ := hO.gives (r.write (setShadow r.state i (imageByte c i))) _
  refine ⟨_, _, directWriteI2CReg_ok ho rfl (isByte_of_shadowIndex hi) (isByte_image hc i) hgives hok, rfl, fun j => ?_, ?_⟩
  · simp only [Run.sent, Run.write, setShadow_shadow, Fin.getElem_fin, Vector.getElem_set, List.mem_singleton, Fin.ext_iff,
      eq_comm (a := (j : Nat))]
    split
    · rename_i hij
      rw [Fin.ext hij]
    · rfl
  · subst hcfg
    simp [Run.sent, Run.write, hgives.length_eq, i2cWritePrims_length]

theorem Faithful.image_imaged (hO : Faithful O) (hc : Admissible c) (hcfg : r.state.cfg = c)
    (ho : r.state.i2cOpen = true) : (directImage O is r).Yields fun _ r1 => Imaged c r is r1 := by
  induction is generalizing r with
  | nil => exact yields_ok ⟨rfl, fun i => by simp, by simp⟩
  | cons i is ih =>
    rw [directImage, hcfg]
    refine yields_andThen (hO.imageByte_imaged hc hcfg ho i) fun _ r1 h1 => ?_
    have hframe := h1.frame
    refine (ih (by rw [hframe]; exact hcfg) (by rw [hframe]; exact ho)).mono fun _ r2 h2 =>
      ⟨h1.frame.trans h2.frame, fun j => ?_, ?_⟩
    · rw [h2.cells, h1.cells]
      by_cases hj : j ∈ is <;> simp [hj]
    · rw [h2.count, h1.count, List.length_singleton, List.length_cons]
      ring

/-- The whole image fills the bank, whatever it held (R86). -/
theorem Imaged.shadow (h : Imaged c r (List.finRange 27) r1) : r1.state.shadow = imageCells c := by
  refine Vector.ext fun i hi => ?_
  have hcell := h.cells ⟨i, hi⟩
  rw [if_pos (List.mem_finRange _)] at hcell
  rw [imageCells, Vector.getElem_ofFn]
  exact hcell

end Image

section Init

variable {O : Transport} {s : State}

/-- The position after the image: the bank is filled, and 27 register writes are made. -/
theorem Imaged.after {r1 : Run} (h : Imaged s.cfg (Run.start s) (List.finRange 27) r1) (hs : TunerReachable s) :
    At s.cfg (crystal s) (27 * writeCount s.cfg) r1 := by
  have hframe := h.frame
  have hcount := h.count
  obtain ⟨htuner, hopen⟩ := hs
  refine ⟨hframe.tuning.cfg, hframe.tuning.crystal, ⟨⟨?_, ?_⟩, fun i => ?_⟩, ?_⟩
  · rw [hframe]; exact htuner
  · rw [hframe]; exact hopen
  · rw [h.cells, if_pos (List.mem_finRange i)]; rfl
  · rw [hcount, List.length_finRange]; exact Nat.zero_add _

/-- `init` writes the image and then sets up the electronics (R86). -/
theorem Faithful.tunerInit_tuned (hO : Faithful O) (hc : Admissible s.cfg) (hs : TunerReachable s)
    (hn : NINT_BASE ≤ nintOf CAL_FREQ (crystal s))
    (hlock : (electronics O s.cfg (crystal s) (27 * writeCount s.cfg)).locked = true) :
    (directTunerInit O (Run.start s)).Yields fun _ r =>
      ∃ r1, SameButShadow s r1.state ∧ r1.state.shadow = imageCells s.cfg ∧
        At s.cfg (crystal s) (27 * writeCount s.cfg) r1 ∧
        Tuned r1 (electronics O s.cfg (crystal s) (27 * writeCount s.cfg)).toTuning r := by
  have hready := hs
  obtain ⟨htuner, hopen⟩ := hs
  rw [directTunerInit, directTuner, if_pos (show (Run.start s).state.tunerPresent = true from htuner),
    if_pos (show (Run.start s).state.i2cOpen = true from hopen)]
  refine yields_andThen (hO.image_imaged (r := Run.start s) hc rfl hopen) fun _ r1 h1 => ?_
  have hr1 := h1.after hready
  exact (hO.initElectronics_tuned hc hr1 hn hlock).mono fun _ r h => ⟨r1, h1.frame, h1.shadow, hr1, h⟩

end Init

/-- Settles O27: the image, and then the electronics by their closed form, from the index each begins at. -/
theorem tunerInitCompletes : Obligations.TunerInitCompletes := by
  intro O s hs hreach hO hn image alone final
  have hc := hs.admissible
  have hfinal {r r1 : Run} {k : Nat} {a : Calibration} (hr : At s.cfg (crystal s) k r) (hsame : SameButTuning s r.state)
      (h : Tuned r a.toTuning r1) (hlock : a.locked = true) : final r.state.shadow a.writes .unit r1.state := by
    obtain ⟨-, -, ⟨-, hfilled⟩, -⟩ := h.after hr
    exact ⟨rfl, hsame.trans h.frame, hfilled, h.hasLock.trans hlock, by rw [h.pllState, hlock]; rfl, h.shadow⟩
  refine ⟨fun hlock => ?_, fun hfilled hlock => ?_⟩
  · refine succeeds_of_yields unitValue hs (hO.tunerInit_tuned hc hreach hn hlock) fun _ r ⟨r1, hsame, hcells, hr1, h⟩ => ?_
    rw [← hcells]
    exact hfinal hr1 hsame.tuning h hlock
  · have hstart := at_start ⟨hreach, hfilled⟩
    exact succeeds_of_yields unitValue hs (hO.initElectronics_tuned hc hstart hn hlock) fun _ r h =>
      hfinal hstart (.refl s) h hlock

end Sys2Proof.Machine
end

section
/-! SUPPORT. Where the tuner commands stop (R79, R82, R83, R86, R90 to R92, R96): at their own checks, on a closed repeater
before any transfer, and on an integer divisor below 13 after the divider write. -/

namespace Sys2Proof.Machine

/-! ### At the first statements -/

section Checks

variable {s : State} {f a v m n : Int} {i : Fin 27}

theorem requireTuner_absent (h : s.tunerPresent = false) (act : Act) : requireTuner s act = .fault .tunerNotPresent := by
  simp [requireTuner, h]

theorem requireTuner_present (h : s.tunerPresent = true) (act : Act) : requireTuner s act = act := if_pos h

theorem shadowIndex_eq_none (h : inRange 0x05 0x1F a = false) : shadowIndex a = none :=
  dif_neg fun hin => Bool.eq_false_iff.1 h ((inRange_iff 0x05 0x1F a).2 hin)

theorem tunable_iff (f : Int) : tunable f = true ↔ 0 < f ∧ f ≤ 1770000000 := by
  rw [tunable, Bool.and_eq_true, decide_eq_true_eq, decide_eq_true_eq]
  rfl

theorem enterTunerWriteRegMask_address (ht : s.tunerPresent = true) (h : inRange 0x05 0x1F a = false) :
    enterOp (.tunerWriteRegMask a v m) s = .fault .shadowAddressOutOfRange := by
  simp only [enterOp, enterTunerWriteRegMask, requireTuner_present ht, shadowIndex_eq_none h]

theorem enterTunerWriteRegMask_mask (ht : s.tunerPresent = true) (hi : shadowIndex a = some i) (hm : isByte m = false) :
    enterOp (.tunerWriteRegMask a v m) s = .fault .valueOutOfRange := by
  simp [enterOp, enterTunerWriteRegMask, requireTuner_present ht, hi, hm]

theorem enterTunerWriteRegMask_undef (ht : s.tunerPresent = true) (hi : shadowIndex a = some i) (hm : isByte m = true)
    (h : s.shadow[i] = none) : enterOp (.tunerWriteRegMask a v m) s = .fault .shadowUninitialised := by
  simp only [enterOp, enterTunerWriteRegMask, requireTuner_present ht, hi, hm, h, if_true]

theorem enterTunerWriteRegMask_closed (ht : s.tunerPresent = true) (hi : shadowIndex a = some i) (hm : isByte m = true)
    (h : s.shadow[i].isSome = true) (ho : s.i2cOpen = false) :
    enterOp (.tunerWriteRegMask a v m) s = .fault .i2cNotOpen := by
  obtain ⟨old, hold⟩ := Option.isSome_iff_exists.1 h
  simp [enterOp, enterTunerWriteRegMask, requireTuner_present ht, hi, hm, hold, ho]

theorem enterTunerReadRegBuffer_range (ht : s.tunerPresent = true) (h : inRange 0 0x1F a = false ∨ n < 1 ∨ 0x20 < a + n) :
    enterOp (.tunerReadRegBuffer a n) s = .fault .valueOutOfRange := by
  simp only [enterOp, enterTunerReadRegBuffer, requireTuner_present ht]
  refine if_neg ?_
  simp only [Bool.and_eq_true, decide_eq_true_eq]
  rcases h with h | h
  · simp [h]
  · omega

theorem enterSetMux_range (ht : s.tunerPresent = true) (h : f < 0) :
    enterOp (.tunerSetMux f) s = .fault .frequencyOutOfRange := by
  simp only [enterOp, enterSetMux, requireTuner_present ht, h, if_true]

theorem tunable_eq_false (h : f ≤ 0 ∨ 1770000000 < f) : tunable f = false := by
  rw [← Bool.not_eq_true, tunable_iff]
  omega

theorem enterSetPll_range (ht : s.tunerPresent = true) (h : tunable f = false) :
    enterOp (.tunerSetPll f) s = .fault .frequencyOutOfRange := by
  simp [enterOp, enterSetPll, requireTuner_present ht, h]

theorem enterSetFrequency_range (ht : s.tunerPresent = true) (h : tunable f = false) :
    enterOp (.tunerSetFrequency f) s = .fault .frequencyOutOfRange := by
  simp [enterOp, enterSetFrequency, requireTuner_present ht, h]

theorem enterTunerInit_closed (ht : s.tunerPresent = true) (ho : s.i2cOpen = false) :
    enterOp .tunerInit s = .fault .i2cNotOpen := by
  simp [enterOp, enterTunerInit, requireTuner_present ht, ho]

end Checks

/-! ### Runs of statements that come to a fault -/

/-- The block `s` with the operations `fs` in progress and nothing returned yet. -/
def State.under (s : State) (fs : List Frame) : State := { s with frames := fs, latch := .unit }

/-- The statements at frame `k`, and those of the operations they call, come to the fault `x` within `n` runs, whatever
operations wait below. -/
def Stops (x : Fault) (n : Nat) (k : Frame) (s : State) : Prop := ∀ fs, runMoves n (s.under (k :: fs)) = .fault x

section Runs

variable {s t : State} {op : Op} {k below : Frame} {x : Fault} {n m : Nat} {i : Instr}

@[simp] theorem State.under_cfg (s : State) (fs : List Frame) : (s.under fs).cfg = s.cfg := rfl

theorem requireTuner_under (h : s.tunerPresent = true) (fs : List Frame) (act : Act) :
    requireTuner (s.under fs) act = act := requireTuner_present h act

/-- A fault ends the step wherever its bound is (R131). -/
theorem runMoves_fault_mono (h : runMoves n s = .fault x) (hle : n ≤ m) : runMoves m s = .fault x := by
  induction n generalizing s m with
  | zero => cases h
  | succ n ih =>
    obtain ⟨m, rfl⟩ : ∃ l, m = l + 1 := ⟨m - 1, by omega⟩
    simp only [runMoves] at h ⊢
    cases hm : micro s with
    | more u => rw [hm] at h; exact ih h (by omega)
    | done u => rw [hm] at h; cases h
    | fault y => rwa [hm] at h

theorem Stops.mono (h : Stops x n k s) (hle : n ≤ m) : Stops x m k s := fun fs => runMoves_fault_mono (h fs) hle

/-- The statements at the frame fault themselves. -/
theorem stops_of_fault (h : ∀ fs, resume k .unit (s.under fs) = .fault x) : Stops x 1 k s := by
  intro fs
  have hfault : micro (s.under (k :: fs)) = (resume k .unit (s.under fs)).move := rfl
  exact runMoves_of_fault (by rw [hfault, h]; rfl)

/-- A fault of the operation called is one of its caller (R131). -/
theorem Stops.of_call (h : Stops x n (.enter op) t) (hcall : ∀ fs, resume below .unit (s.under fs) = .call op k (t.under fs)) :
    Stops x (n + 1) below s := by
  intro fs
  have hmicro : micro (s.under (below :: fs)) = (resume below .unit (s.under fs)).move := rfl
  have hmore : micro (s.under (below :: fs)) = .more (t.under (.enter op :: k :: fs)) := by rw [hmicro, hcall]; rfl
  rw [runMoves_of_more hmore, h]

/-- A command stops where its operation does, within the bound of a step. -/
theorem ReadyInternal.exec_of_stops (hs : ReadyInternal s) (h : Stops x n (.enter op) s)
    (hx : exec i s = beginInternal op s := by rfl) (hn : n ≤ MOVE_BOUND := by decide) : exec i s = .fault x :=
  hs.exec_of_begin (runMoves_fault_mono (h s.frames) hn) hx

end Runs

/-! ### The closed repeater -/

/-- The tuner is present, the repeater is closed, and the configuration is admissible. -/
structure Closed (s : State) : Prop where
  admissible : Admissible s.cfg
  tuner : s.tunerPresent = true
  repeater : s.i2cOpen = false

/-- As `Closed`, with every shadow cell a byte: a masked write stops on the repeater. -/
structure ClosedFilled (s : State) : Prop extends Closed s where
  filled : ShadowReady s

section ClosedRepeater

variable {s : State} {k below : Frame} {w : MaskedWrite} {ws : List MaskedWrite} {f : Int} {n : Nat}

theorem Closed.readRegBuffer_stops (hs : Closed s) {a n : Int} (ha : 0 ≤ a) (hn : 1 ≤ n) (hend : a + n ≤ 0x20) :
    Stops .i2cNotOpen 2 (.enter (.tunerReadRegBuffer a n)) s := by
  have hrange : inRange 0 0x1F a = true := (inRange_iff ..).2 ⟨ha, by omega⟩
  have hbyte : isByte a = true := (inRange_iff ..).2 ⟨ha, by omega⟩
  have hread : Stops .i2cNotOpen 1 (.enter (.readI2CRegBuffer TUNER_I2C_ADDR a n)) s :=
    stops_of_fault fun _ => enterReadI2CRegBuffer_closed (by decide) hbyte hs.repeater
  refine hread.of_call (k := .readRegBufferData) fun fs => (requireTuner_under hs.tuner fs _).trans ?_
  simp only [hrange, hn, hend, decide_true, Bool.and_self, if_true]

/-- Lock detection begins with a status read (R101). -/
theorem Closed.getPllLock_stops (hs : Closed s) (first : Bool) :
    Stops .i2cNotOpen 3 (.enter (.tunerGetPllLock first)) s := by
  have hlock := hs.admissible.lock
  have hclosed (p : PllState) : Closed { s with pllState := p } := ⟨hs.admissible, hs.tuner, hs.repeater⟩
  have hread (p : PllState) := (hclosed p).readRegBuffer_stops (a := s.cfg.lockAddr) (n := LOCK_LEN) (by omega) (by decide)
    (by exact_mod_cast hlock)
  exact (hread _).of_call fun fs => requireTuner_under hs.tuner fs _

theorem ClosedFilled.masked_stops (hs : ClosedFilled s) (hw : okWrite w = true) :
    Stops .i2cNotOpen 1 (.enter (.tunerWriteRegMask w.addr w.value w.mask)) s := by
  obtain ⟨hreg, hmask⟩ := (okWrite_iff w).1 hw
  obtain ⟨i, hi⟩ := shadowIndex_of_okReg hreg
  exact stops_of_fault fun _ => enterTunerWriteRegMask_closed hs.tuner hi hmask (hs.filled i) hs.repeater

/-- A list stops at its first masked write (R84). -/
theorem ClosedFilled.batch_stops (hs : ClosedFilled s) (hws : OkWrites ws) (hne : ws ≠ []) :
    Stops .i2cNotOpen 2 (.enter (.tunerBatch ws)) s := by
  cases ws with
  | nil => exact absurd rfl hne
  | cons w ws =>
    obtain ⟨hw, -⟩ := List.forall_mem_cons.1 hws
    exact (hs.masked_stops hw).of_call fun _ => rfl

/-- A caller of a list stops in it, or after it where the list is empty. -/
theorem ClosedFilled.stops_of_batch (hs : ClosedFilled s) (hws : OkWrites ws) (h : Stops .i2cNotOpen n k s)
    (hcall : ∀ fs, resume below .unit (s.under fs) = .call (.tunerBatch ws) k (s.under fs)) :
    Stops .i2cNotOpen (n + 3) below s := by
  cases ws with
  | cons w ws => exact ((hs.batch_stops hws (List.cons_ne_nil w ws)).of_call hcall).mono (by omega)
  | nil =>
    intro fs
    have hmicro : micro (s.under (below :: fs)) = (resume below .unit (s.under fs)).move := rfl
    have hmore : micro (s.under (below :: fs)) = .more (s.under (.enter (.tunerBatch []) :: k :: fs)) := by
      rw [hmicro, hcall]; rfl
    have hreturn : micro (s.under (.enter (.tunerBatch []) :: k :: fs)) = .more (s.under (k :: fs)) := rfl
    rw [runMoves_of_more hmore, runMoves_of_more hreturn]
    exact runMoves_fault_mono (h fs) (Nat.le_succ n)

/-- `setPll` stops in `SETPLL_PRE`, or at its status read (R92). -/
theorem ClosedFilled.setPll_stops (hs : ClosedFilled s) (hf : tunable f = true) :
    Stops .i2cNotOpen 6 (.enter (.tunerSetPll f)) s := by
  have hlength := hs.admissible.fineTune_length
  have hend := hs.admissible.fineTune
  have hread := hs.toClosed.readRegBuffer_stops (a := s.cfg.ftAddr) (n := s.cfg.ftLen) (by omega) (by omega) (by omega)
  have hafter : Stops .i2cNotOpen 3 (.setPllPreDone f (dividerExponent f) (mixDivOf (dividerExponent f))) s :=
    hread.of_call fun _ => rfl
  exact hs.stops_of_batch hs.admissible.setpllPre hafter fun fs => (requireTuner_under hs.tuner fs _).trans (if_pos hf)

/-- `setMux` has four fields, and stops at the first (R90). -/
theorem ClosedFilled.setMux_stops (hs : ClosedFilled s) (hf : 0 ≤ f) : Stops .i2cNotOpen 2 (.enter (.tunerSetMux f)) s := by
  obtain ⟨e, he⟩ := hs.admissible.muxEntry f hf
  have hmux := hs.admissible.mux e
  have hlength : (muxWrites s.cfg.muxFields e).length = 4 := by simp [muxWrites, hs.admissible.muxFields_length]
  have henter (fs : List Frame) :
      resume (.enter (.tunerSetMux f)) .unit (s.under fs) = loopSetMux (muxWrites s.cfg.muxFields e) (s.under fs) := by
    simp only [resume, enterOp, enterSetMux, requireTuner_under hs.tuner, if_neg (not_lt.2 hf), State.under_cfg, he]
  cases hws : muxWrites s.cfg.muxFields e with
  | nil => rw [hws] at hlength; cases hlength
  | cons w ws =>
    rw [hws] at hmux henter
    obtain ⟨hw, -⟩ := List.forall_mem_cons.1 hmux
    exact (hs.masked_stops hw).of_call henter

theorem ClosedFilled.setFrequency_stops (hs : ClosedFilled s) (hf : tunable f = true) :
    Stops .i2cNotOpen 3 (.enter (.tunerSetFrequency f)) s := by
  obtain ⟨hpos, -⟩ := (tunable_iff f).1 hf
  exact (hs.setMux_stops hpos.le).of_call fun fs => (requireTuner_under hs.tuner fs _).trans (if_pos hf)

/-- A calibration stops in `CAL_PRE`, or in its synthesis (R103). -/
theorem ClosedFilled.calibrateFilter_stops (hs : ClosedFilled s) (first : Bool) :
    Stops .i2cNotOpen 10 (.enter (.tunerCalibrateFilter first)) s := by
  have hafter : Stops .i2cNotOpen 7 (.calibratePreDone first) s :=
    (hs.setPll_stops (f := CAL_FREQ) (by decide)).of_call fun _ => rfl
  exact hs.stops_of_batch hs.admissible.calPre hafter fun fs => requireTuner_under hs.tuner fs _

theorem ClosedFilled.initElectronics_stops (hs : ClosedFilled s) :
    Stops .i2cNotOpen 14 (.enter .tunerInitElectronics) s := by
  have hafter : Stops .i2cNotOpen 11 .initElectronicsPreDone s :=
    (hs.calibrateFilter_stops true).of_call fun _ => rfl
  exact hs.stops_of_batch hs.admissible.initElecPre hafter fun fs => requireTuner_under hs.tuner fs _

/-- The LNA field is written in every case (R110). -/
theorem ClosedFilled.setManualGain_stops (hs : ClosedFilled s) (g : Rat) :
    Stops .i2cNotOpen 5 (.enter (.tunerSetManualGain g)) s := by
  obtain ⟨hlna, -⟩ := List.forall_mem_cons.1 (hs.admissible.gain (gainStep s.cfg g))
  have hafter : Stops .i2cNotOpen 2 (.setManualGainPreDone g) s :=
    (hs.masked_stops hlna).of_call (k := .setManualGainLnaDone (mixStep (gainStep s.cfg g))) fun _ => rfl
  exact hs.stops_of_batch hs.admissible.manualGainPre hafter fun fs => requireTuner_under hs.tuner fs _

theorem ClosedFilled.setAutoGain_stops (hs : ClosedFilled s) (hne : s.cfg.autoGainWrites ≠ []) :
    Stops .i2cNotOpen 3 (.enter .tunerSetAutoGain) s :=
  (hs.batch_stops hs.admissible.autoGain hne).of_call fun fs => requireTuner_under hs.tuner fs _

/-- The standby table has eleven rows, and `close` stops at the first (R88). -/
theorem ClosedFilled.tunerClose_stops (hs : ClosedFilled s) : Stops .i2cNotOpen 2 (.enter .tunerClose) s := by
  have hstandby := hs.admissible.standby
  have hlength := hs.admissible.standby_length
  have henter (fs : List Frame) :
      resume (.enter .tunerClose) .unit (s.under fs) = loopTunerClose s.cfg.standbyTable (s.under fs) :=
    requireTuner_under hs.tuner fs _
  cases hrows : s.cfg.standbyTable with
  | nil => rw [hrows] at hlength; cases hlength
  | cons p rows =>
    rw [hrows] at hstandby henter
    obtain ⟨hw, -⟩ := List.forall_mem_cons.1 hstandby
    exact (hs.masked_stops hw).of_call henter

end ClosedRepeater

/-! ### The integer divisor below 13 -/

section Divisor

variable {O : Transport} {c : Config} {x : Rat} {k : Nat} {r : Run} {f : Int} {s : State}

/-- A synthesis stops after its divider write (R96). -/
theorem Faithful.setPll_fault (hO : Faithful O) (hc : Admissible c) (hr : At c x k r) (hf : tunable f = true)
    (hn : nintOf f x < 13) : ∃ r1, directSetPll O f r = .fault .nintBelowRange r1 := by
  obtain ⟨r1, hpll, h1⟩ := hO.setPll_parameters hc hr hf
  have hr1 := h1.after hr
  refine ⟨r1, ?_⟩
  rw [hpll, directParameters_eq, hr1.crystal, if_neg (by unfold NINT_MAX; omega),
    if_pos (show nintOf f x < NINT_BASE from hn)]

theorem Faithful.setFrequency_fault (hO : Faithful O) (hc : Admissible c) (hr : At c x k r) (hf : tunable f = true)
    (hn : nintOf f x < 13) : ∃ r1, directSetFrequency O f r = .fault .nintBelowRange r1 := by
  obtain ⟨hpos, -⟩ := (tunable_iff f).1 hf
  obtain ⟨e, he⟩ := hc.muxEntry f hpos.le
  obtain ⟨_, r1, hmux, h1⟩ := hO.setMux_wrote hc hr hpos.le he
  rw [directSetFrequency, hr.directTuner_eq, if_pos hf, hmux]
  exact hO.setPll_fault hc (h1.after hr) hf hn

/-- The repeater opens in two primitives, and the tuner can then be reached (R69). -/
theorem Faithful.openI2C_at (hO : Faithful O) (ht : s.tunerPresent = true) (hfilled : ShadowReady s) :
    ∃ r1, directOpenI2C O (Run.start s) = .ok () r1 ∧ At s.cfg (crystal s) 2 r1 := by
  obtain ⟨a, ha⟩ := hO.answers_ok (Run.start s).answers.length (.ctrlOut (demodValue 1) (half 1 ||| WRITE_FLAG) [0x18])
  obtain ⟨y, hy⟩ := hO.answers_byte (Run.asked (Run.start s) _ (.ok a)).answers.length (demodValue POLL_ADDR) (half POLL_PAGE)
  exact ⟨_, directOpenI2C_ok ⟨ha, hy, trivial⟩, rfl, rfl, ⟨⟨ht, rfl⟩, hfilled⟩, rfl⟩

/-- The frequency the tuner is asked for is the target and the intermediate frequency (R121). -/
theorem Faithful.setCenterFrequency_fault (hO : Faithful O) (hs : ReadyExternal .opened s) (ht : s.tunerPresent = true)
    (hfilled : ShadowReady s) (hpos : 0 < f + 3570000) (hmax : f + 3570000 ≤ 1770000000)
    (hn : nintOf (f + 3570000) (crystal s) < 13) :
    ∃ r1, directSetCenterFrequency O f (Run.start s) = .fault .nintBelowRange r1 := by
  obtain ⟨hready, hsession⟩ := hs
  obtain ⟨r1, hopen, hr1⟩ := hO.openI2C_at ht hfilled
  obtain ⟨r2, h2⟩ := hO.setFrequency_fault hready.admissible hr1 ((tunable_iff _).2 ⟨hpos, hmax⟩) hn
  refine ⟨r2, ?_⟩
  have hrange : ¬ (f + IF_FREQ ≤ 0 ∨ VCO_MIN < f + IF_FREQ) := by unfold IF_FREQ VCO_MIN; omega
  rw [directSetCenterFrequency, directSession, if_pos (show (Run.start s).state.session = .opened from hsession),
    if_neg hrange, hopen]
  simp only [Result.andThen, IF_FREQ, h2]

/-- A command faults where its operation does. -/
theorem endsInFault_of_fault {α : Type} {i : Instr} {y : Result α} {x : Fault} (w : α → Value) (ha : Accepts i s)
    (h : ∃ r, y = .fault x r) (hd : direct O i (Run.start s) = y.map w := by rfl) : EndsInFault O i s x := by
  obtain ⟨r, rfl⟩ := h
  exact endsInFault_of_direct ha hd

end Divisor

/-! ### The statement -/

section Statement

variable {s : State}

/-- Without a tuner every tuner operation but the probe stops at its first statement (R79). -/
theorem ReadyInternal.tuner_absent (hs : ReadyInternal s) (h : s.tunerPresent = false) (op : Op) {i : Instr} {act : Act}
    (hop : enterOp op { s with latch := .unit } = requireTuner { s with latch := .unit } act := by rfl)
    (hx : exec i s = beginInternal op s := by rfl) : exec i s = .fault .tunerNotPresent :=
  hs.exec_fault (hop.trans (requireTuner_absent h act)) hx

/-- The tuner commands on a closed repeater, the shadow bank filled or not. -/
theorem ReadyInternal.closed_stops (hs : ReadyInternal s) (ht : s.tunerPresent = true) (ho : s.i2cOpen = false) :
    exec .tunerInit s = .fault .i2cNotOpen ∧
    (∀ b, exec (.tunerGetPllLock b) s = .fault .i2cNotOpen) ∧
    (∀ a n : Int, 0 ≤ a → 1 ≤ n → a + n ≤ 0x20 → exec (.tunerReadRegBuffer a n) s = .fault .i2cNotOpen) := by
  have hclosed : Closed s := ⟨hs.admissible, ht, ho⟩
  exact ⟨hs.exec_fault (enterTunerInit_closed ht ho), fun b => hs.exec_of_stops (hclosed.getPllLock_stops b),
    fun a n ha hn hend => hs.exec_of_stops (hclosed.readRegBuffer_stops ha hn hend)⟩

/-- The operations that begin with a masked write, on a closed repeater with the shadow bank filled. -/
theorem ReadyInternal.closed_filled_stops (hs : ReadyInternal s) (hclosed : ClosedFilled s) :
    (∀ f : Int, 0 ≤ f → exec (.tunerSetMux f) s = .fault .i2cNotOpen) ∧
    (∀ f : Int, tunable f = true → exec (.tunerSetPll f) s = .fault .i2cNotOpen ∧
      exec (.tunerSetFrequency f) s = .fault .i2cNotOpen) ∧
    (∀ b g, ∀ i ∈ ([.tunerInitElectronics, .tunerCalibrateFilter b, .tunerSetManualGain g, .tunerClose] : List Instr),
      exec i s = .fault .i2cNotOpen) ∧
    (s.cfg.autoGainWrites ≠ [] → exec .tunerSetAutoGain s = .fault .i2cNotOpen) := by
  refine ⟨fun f hf => hs.exec_of_stops (hclosed.setMux_stops hf), fun f hf => ⟨?_, ?_⟩, fun b g => ?_,
    fun hne => hs.exec_of_stops (hclosed.setAutoGain_stops hne)⟩
  · exact hs.exec_of_stops (hclosed.setPll_stops hf)
  · exact hs.exec_of_stops (hclosed.setFrequency_stops hf)
  · simp only [List.forall_mem_cons]
    exact ⟨hs.exec_of_stops hclosed.initElectronics_stops, hs.exec_of_stops (hclosed.calibrateFilter_stops b),
      hs.exec_of_stops (hclosed.setManualGain_stops g), hs.exec_of_stops hclosed.tunerClose_stops,
      List.forall_mem_nil _⟩

end Statement

/-- Settles O45: the first statements, the runs that come to the closed repeater, and the divisor in direct style. -/
theorem tunerCommandFaults : Obligations.TunerCommandFaults := by
  refine ⟨fun s hs => ⟨?absent, fun ht => ⟨?closed, ?address, ?mask, ?undef, ?cell, ?buffer, ?mux, ?frequency, ?divisor⟩⟩,
    ?center⟩
  case absent =>
    intro f a n m g b h
    simp only [List.forall_mem_cons]
    exact ⟨hs.tuner_absent h .tunerInit, hs.tuner_absent h .tunerInitElectronics, hs.tuner_absent h (.tunerSetFrequency f),
      hs.tuner_absent h (.tunerSetMux f), hs.tuner_absent h (.tunerSetPll f), hs.tuner_absent h (.tunerGetPllLock b),
      hs.tuner_absent h (.tunerCalibrateFilter b), hs.tuner_absent h .tunerSetAutoGain,
      hs.tuner_absent h (.tunerSetManualGain g), hs.tuner_absent h (.tunerReadRegBuffer a n),
      hs.tuner_absent h (.tunerWriteRegMask a n m), hs.tuner_absent h .tunerClose, List.forall_mem_nil _⟩
  case closed =>
    intro ho
    obtain ⟨hinit, hlock, hread⟩ := hs.closed_stops ht ho
    exact ⟨hinit, hlock, hread, fun hfilled => hs.closed_filled_stops ⟨⟨hs.admissible, ht, ho⟩, hfilled⟩⟩
  case address =>
    intro a v m ha
    exact hs.exec_fault (enterTunerWriteRegMask_address ht ha)
  case mask =>
    intro a v m ha hm
    obtain ⟨i, hi⟩ := shadowIndex_of_okReg ha
    exact hs.exec_fault (enterTunerWriteRegMask_mask ht hi hm)
  case undef =>
    intro a v m i hi hm hcell
    exact hs.exec_fault (enterTunerWriteRegMask_undef ht hi hm hcell)
  case cell =>
    intro a v m i hi hm hcell ho
    exact hs.exec_fault (enterTunerWriteRegMask_closed ht hi hm hcell ho)
  case buffer =>
    intro a n h
    exact hs.exec_fault (enterTunerReadRegBuffer_range ht h)
  case mux =>
    intro f hf
    exact hs.exec_fault (enterSetMux_range ht hf)
  case frequency =>
    intro f hf
    exact ⟨hs.exec_fault (enterSetPll_range ht (tunable_eq_false hf)),
      hs.exec_fault (enterSetFrequency_range ht (tunable_eq_false hf))⟩
  case divisor =>
    intro O f hready hO hf hn
    have hstart := at_start hready
    exact ⟨endsInFault_of_fault Value.rat hs (hO.setPll_fault hs.admissible hstart hf hn),
      endsInFault_of_fault Value.rat hs (hO.setFrequency_fault hs.admissible hstart hf hn)⟩
  case center =>
    intro O s f hs ht hfilled hO hpos hmax hn
    exact endsInFault_of_fault Value.rat hs.left (hO.setCenterFrequency_fault hs ht hfilled hpos hmax hn)

end Sys2Proof.Machine
end

section
/-! SUPPORT. The multiplexer's step function (R89), and the proof that it is total and monotone. -/

namespace Sys2Proof.Machine

/-- The last of a filtered range is its greatest number. -/
theorem getLast?_filter_range_eq_some {n m : Nat} {p : Nat → Bool} (h : ((List.range n).filter p).getLast? = some m) :
    p m = true ∧ ∀ k, k < n → p k = true → k ≤ m := by
  refine ⟨List.of_mem_filter (List.mem_of_getLast? h), fun k hk hp => ?_⟩
  have hmem : k ∈ (List.range n).filter p := List.mem_filter.2 ⟨List.mem_range.2 hk, hp⟩
  have hsorted : ((List.range n).filter p).Pairwise (· < ·) := List.pairwise_lt_range.filter p
  obtain ⟨ks, hks⟩ := List.getLast?_eq_some_iff.1 h
  rw [hks] at hmem hsorted
  obtain ⟨-, -, hbefore⟩ := List.pairwise_append.1 hsorted
  rcases List.mem_append.1 hmem with hin | hlast
  · exact (hbefore k hin m (List.mem_singleton.2 rfl)).le
  · exact (List.mem_singleton.1 hlast).le

/-- The index is that of an entry at or below the frequency, and no such entry comes after it (R89). -/
theorem muxIndex_eq_some {table : List MuxEntry} {mhz : Rat} {n : Nat} (h : muxIndex table mhz = some n) :
    (∃ e, table[n]? = some e ∧ e.threshold ≤ mhz) ∧ ∀ k e, table[k]? = some e → e.threshold ≤ mhz → k ≤ n := by
  obtain ⟨hn, hmax⟩ := getLast?_filter_range_eq_some h
  constructor
  · cases he : table[n]? with
    | none => simp only [he, Bool.false_eq_true] at hn
    | some e => exact ⟨e, rfl, by simpa only [he, decide_eq_true_eq] using hn⟩
  · intro k e he hle
    obtain ⟨hk, -⟩ := List.getElem?_eq_some_iff.1 he
    exact hmax k hk (by simpa only [he, decide_eq_true_eq] using hle)

/-- An admissible table has an index for every frequency from 0 on (R89). -/
theorem exists_muxIndex {c : Config} (h : okMuxTable c = true) {mhz : Rat} (hpos : 0 ≤ mhz) :
    ∃ n, muxIndex c.muxTable mhz = some n := by
  obtain ⟨first, hfirst, hzero⟩ := threshold_of_okMuxTable h
  obtain ⟨e, he⟩ := exists_muxEntry hfirst (hzero ▸ hpos)
  obtain ⟨n, hn, -⟩ := Option.bind_eq_some_iff.1 he
  exact ⟨n, hn⟩

/-- Settles O52: the entry of the lower frequency is one at or below the higher. -/
theorem muxIndexIsStep : Obligations.MuxIndexIsStep := by
  intro c f f' hc hf hle
  have hmhz : f / 1000000 ≤ f' / 1000000 := div_le_div_of_nonneg_right hle (by norm_num)
  have hpos : 0 ≤ f / 1000000 := div_nonneg hf (by norm_num)
  obtain ⟨n, hn⟩ := exists_muxIndex hc hpos
  obtain ⟨n', hn'⟩ := exists_muxIndex hc (hpos.trans hmhz)
  obtain ⟨⟨e, he, hthreshold⟩, hmax⟩ := muxIndex_eq_some hn
  obtain ⟨-, hmax'⟩ := muxIndex_eq_some hn'
  exact ⟨n, n', e, hn, hn', hmax' n e he (hthreshold.trans hmhz), he, hthreshold, hmax⟩

end Sys2Proof.Machine
end

section
/-! SUPPORT. The formulas of the synthesis (R93, R95, R97 to R99): the divider, the divisor with its remainder, the
packed byte and the sigma-delta word, each by its bounds; and the proofs of what the rules derive from them (R96, R100,
R103). -/

namespace Sys2Proof.Machine

/-! ### The divider -/

section Divider

variable {f d : Int}

theorem mixDivOf_eq_zpow (h : 0 ≤ d) : mixDivOf d = (2 : Rat) ^ (d + 1) := by
  rw [mixDivOf, ← zpow_natCast, Int.toNat_of_nonneg (by omega)]

/-- A divider is twice the power of two of its exponent (R93). -/
theorem mixDivOf_eq_mul (h : 0 ≤ d) : mixDivOf d = 2 * (2 : Rat) ^ d := by
  rw [mixDivOf_eq_zpow h, zpow_add_one₀ two_ne_zero, mul_comm]

theorem mixDivOf_pos (d : Int) : 0 < mixDivOf d := by
  unfold mixDivOf
  positivity

/-- The logarithm of step 1 brackets the VCO's lower bound (R93). -/
theorem flog2_divider_bounds (h : tunable f = true) :
    (f : Rat) * 2 ^ flog2 ((VCO_MIN : Rat) / f) ≤ 1770000000 ∧
      1770000000 < (f : Rat) * (2 * 2 ^ flog2 ((VCO_MIN : Rat) / f)) := by
  have hf : (0 : Rat) < f := Int.cast_pos.2 ((tunable_iff f).1 h).1
  have hv : (VCO_MIN : Rat) = 1770000000 := by norm_num [VCO_MIN]
  rw [hv]
  obtain ⟨hle, hlt⟩ := flog2_bounds (q := 1770000000 / (f : Rat)) (by positivity)
  rw [zpow_add_one₀ two_ne_zero, div_lt_iff₀' hf, mul_comm _ (2 : Rat)] at hlt
  exact ⟨(le_div_iff₀' hf).1 hle, hlt⟩

theorem le_flog2_divider_iff (h : tunable f = true) (n : Int) :
    n ≤ flog2 ((VCO_MIN : Rat) / f) ↔ (f : Rat) * 2 ^ n ≤ 1770000000 := by
  have hf : (0 : Rat) < f := Int.cast_pos.2 ((tunable_iff f).1 h).1
  obtain ⟨hle, hlt⟩ := flog2_divider_bounds h
  constructor
  · intro hn
    exact (mul_le_mul_of_nonneg_left (zpow_le_zpow_right₀ one_le_two hn) hf.le).trans hle
  · intro hn
    have hpow := lt_of_mul_lt_mul_left (hn.trans_lt hlt) hf.le
    rw [mul_comm, ← zpow_add_one₀ two_ne_zero, zpow_lt_zpow_iff_right₀ one_lt_two] at hpow
    omega

theorem dividerExponent_nonneg (h : tunable f = true) : 0 ≤ dividerExponent f := by
  refine le_min (by decide) ((le_flog2_divider_iff h 0).2 ?_)
  rw [zpow_zero, mul_one]
  exact_mod_cast ((tunable_iff f).1 h).2

theorem dividerExponent_le (f : Int) : dividerExponent f ≤ 6 := min_le_left _ _

/-- The greatest exponent is taken up to VCO_MIN / 64 (R93). -/
theorem dividerExponent_eq_six_iff (h : tunable f = true) : dividerExponent f = 6 ↔ f ≤ 27656250 := by
  have hsix : dividerExponent f = 6 ↔ 6 ≤ flog2 ((VCO_MIN : Rat) / f) := min_eq_left_iff
  have hcast : (f : Rat) * 2 ^ (6 : Int) ≤ 1770000000 ↔ f * 64 ≤ 1770000000 := by
    rw [show (2 : Rat) ^ (6 : Int) = 64 by norm_num]
    exact_mod_cast Iff.rfl
  rw [hsix, le_flog2_divider_iff h, hcast]
  omega

/-- Every exponent keeps the VCO at or below its upper bound (R93). -/
theorem vco_le (h : tunable f = true) : (f : Rat) * mixDivOf (dividerExponent f) ≤ 3540000000 := by
  have hle := (le_flog2_divider_iff h _).1 (min_le_right DIV_CLAMP _)
  rw [mixDivOf_eq_mul (dividerExponent_nonneg h)]
  unfold dividerExponent at *
  linarith

/-- An exponent that is not clamped puts the VCO above its lower bound (R93). -/
theorem lt_vco (h : tunable f = true) (hd : dividerExponent f < 6) :
    1770000000 < (f : Rat) * mixDivOf (dividerExponent f) := by
  obtain ⟨-, hlt⟩ := flog2_divider_bounds h
  have hlog : dividerExponent f = flog2 ((VCO_MIN : Rat) / f) := (min_choice DIV_CLAMP _).resolve_left hd.ne
  rwa [mixDivOf_eq_mul (dividerExponent_nonneg h), hlog]

end Divider

/-- Settles O53: the exponent by the bracket of its logarithm, below the clamp and at it. -/
theorem dividerChoice : Obligations.DividerChoice := fun f h =>
  ⟨dividerExponent_nonneg h, dividerExponent_le f, mixDivOf_eq_zpow (dividerExponent_nonneg h),
    fun hd => ⟨lt_vco h hd, vco_le h⟩, dividerExponent_eq_six_iff h, vco_le h⟩

/-! ### The divisor and the sigma-delta word -/

section Parameters

variable {a b x fra : Rat} {n : Int}

theorem qmod_nonneg (hb : 0 < b) : 0 ≤ qmod a b := by
  have hle := (le_div_iff₀' hb).1 (Rat.floor_le (a / b))
  exact sub_nonneg.2 hle

theorem qmod_lt (hb : 0 < b) : qmod a b < b := by
  have hlt := (div_lt_iff₀' hb).1 (Rat.lt_floor_add_one (a / b))
  push_cast at hlt
  unfold qmod
  linarith

/-- The VCO frequency is the divisor's share and the remainder (R95). -/
theorem vco_eq (f : Int) (md x : Rat) : (f : Rat) * md = 2 * x * pllNint f md x + pllFraction f md x :=
  (add_sub_cancel _ _).symm

/-- The two fields of the packed byte do not overlap (R97). -/
theorem packNint_eq (hlo : 13 ≤ n) (hhi : n ≤ 63) : packNint n = (n - 13) / 4 + 64 * ((n - 13) % 4) := by
  have hni : ((byteOf ((n - 13) / 4)).toNat : Int) = (n - 13) / 4 := byteOf_toNat (by omega) (by omega)
  have hsi : ((byteOf ((n - 13) % 4)).toNat : Int) = (n - 13) % 4 := byteOf_toNat (by omega) (by omega)
  have hshift : (byteOf ((n - 13) % 4) <<< 6).toNat = (byteOf ((n - 13) % 4)).toNat <<< 6 := by
    rw [BitVec.toNat_shiftLeft, Nat.shiftLeft_eq]
    omega
  have hor := Nat.shiftLeft_add_eq_or_of_lt (i := 6) (show (byteOf ((n - 13) / 4)).toNat < 2 ^ 6 by omega)
    (byteOf ((n - 13) % 4)).toNat
  have hpack : packNint n = ((byteOf ((n - 13) / 4) ||| byteOf ((n - 13) % 4) <<< 6).toNat : Int) := rfl
  rw [hpack, BitVec.toNat_or, hshift, Nat.or_comm, ← hor, Nat.shiftLeft_eq]
  omega

/-- A remainder below twice the crystal gives a word of 16 bits (R98). -/
theorem floor_sigmaDelta_bounds (hx : 0 < x) (h0 : 0 ≤ fra) (h : fra < 2 * x) :
    0 ≤ (32768 * fra / x).floor ∧ (32768 * fra / x).floor ≤ 65535 := by
  constructor
  · exact Rat.le_floor_iff.2 (by push_cast; positivity)
  · refine Int.lt_add_one_iff.1 (Rat.floor_lt_iff.2 ?_)
    rw [div_lt_iff₀ hx]
    push_cast
    linarith

/-- The clamp of the word never changes it (R98). -/
theorem sigmaDelta_eq (hx : 0 < x) (h0 : 0 ≤ fra) (h : fra < 2 * x) : sigmaDelta fra x = (32768 * fra / x).floor :=
  min_eq_right (floor_sigmaDelta_bounds hx h0 h).2

/-- The share of the crystal that the word leaves out is less than one of its units (R100). -/
theorem sigmaDelta_error (hx : 0 < x) (h0 : 0 ≤ fra) (h : fra < 2 * x) :
    0 ≤ fra - 2 * x * (sigmaDelta fra x / 65536) ∧ fra - 2 * x * (sigmaDelta fra x / 65536) < 2 * x / 65536 := by
  rw [sigmaDelta_eq hx h0 h]
  have hle := (le_div_iff₀ hx).1 (Rat.floor_le (32768 * fra / x))
  have hlt := (div_lt_iff₀ hx).1 (Rat.lt_floor_add_one (32768 * fra / x))
  push_cast at hlt
  constructor <;> linarith

end Parameters

/-- Settles O54: the remainder is one of a division by twice the crystal, and bounds the word. -/
theorem pllParameters : Obligations.PllParameters := by
  intro f md x hx n fra
  have hxx : 0 < 2 * x := by linarith
  have h0 : 0 ≤ fra := qmod_nonneg hxx
  have h : fra < 2 * x := qmod_lt hxx
  obtain ⟨hlo, hhi⟩ := floor_sigmaDelta_bounds hx h0 h
  refine ⟨vco_eq f md x, h0, h, fun hn hn' => ?_, sigmaDelta_eq hx h0 h, ?_, min_le_left _ _⟩
  · have hpack := packNint_eq hn hn'
    exact ⟨hpack, by omega, by omega⟩
  · rwa [sigmaDelta_eq hx h0 h]

/-- The error of a synthesis is what the sigma-delta word leaves out, divided as the VCO is (R99, R100). -/
theorem sub_achievedOf (f : Int) (x : Rat) : (f : Rat) - achievedOf f x =
    (vcoFraOf f x - 2 * x * (sdmOf f x / 65536)) / mixDivOf (dividerExponent f) := by
  have hmd := mixDivOf_pos (dividerExponent f)
  have hvco : (f : Rat) * mixDivOf (dividerExponent f) = 2 * x * nintOf f x + vcoFraOf f x := vco_eq f _ x
  rw [achievedOf, achievedFrequency, eq_div_iff hmd.ne', sub_mul, div_mul_cancel₀ _ hmd.ne', hvco]
  ring

/-- Settles O55: the error by the bounds of the sigma-delta word. -/
theorem synthesisError : Obligations.SynthesisError := by
  intro f x hx _
  have hmd := mixDivOf_pos (dividerExponent f)
  have hxx : 0 < 2 * x := by linarith
  obtain ⟨hle, hlt⟩ := sigmaDelta_error (fra := vcoFraOf f x) hx (qmod_nonneg hxx) (qmod_lt hxx)
  rw [sub_achievedOf, ← div_div]
  exact ⟨div_nonneg hle hmd.le, div_lt_div_of_pos_right hlt hmd⟩

/-! ### The frequencies within reach -/

section Reach

variable {f n : Int} {x : Rat}

theorem nintOf_lt_iff (hx : 0 < x) :
    nintOf f x < n ↔ (f : Rat) * mixDivOf (dividerExponent f) < 2 * x * n := by
  rw [nintOf, pllNint, Rat.floor_lt_iff, div_lt_iff₀' (by linarith)]

theorem le_nintOf_iff (hx : 0 < x) :
    n ≤ nintOf f x ↔ 2 * x * n ≤ (f : Rat) * mixDivOf (dividerExponent f) := by
  rw [nintOf, pllNint, Rat.le_floor_iff, le_div_iff₀' (by linarith)]

/-- At the nominal crystal the divisor is below 13 where the greatest divider leaves the VCO below 26 crystals (R96). -/
theorem nintOf_nominal_lt_iff (h : tunable f = true) : nintOf f 28800000 < 13 ↔ f < 5850000 := by
  rw [nintOf_lt_iff (by norm_num)]
  rcases (dividerExponent_le f).lt_or_eq with hd | hd
  · have hvco := lt_vco h hd
    have hlarge : ¬ f ≤ 27656250 := fun hle => hd.ne ((dividerExponent_eq_six_iff h).2 hle)
    exact iff_of_false (by push_cast; linarith) (by omega)
  · rw [hd, show mixDivOf 6 = 128 by rw [mixDivOf_eq_zpow (by decide)]; norm_num,
      show (2 * 28800000 * ((13 : Int) : Rat)) = ((5850000 : Int) : Rat) * 128 by norm_num,
      mul_lt_mul_iff_left₀ (by norm_num)]
    exact Int.cast_lt

/-- A calibration divides its VCO by 32 (R103 c). -/
theorem mixDivOf_calibration : mixDivOf (dividerExponent CAL_FREQ) = 32 := by
  have h : tunable CAL_FREQ = true := by decide
  have hle := (le_flog2_divider_iff h 4).2 (by norm_num [CAL_FREQ])
  have hlt := (le_flog2_divider_iff h 5).not.2 (by norm_num [CAL_FREQ])
  have hd : dividerExponent CAL_FREQ = 4 := by
    unfold dividerExponent DIV_CLAMP
    omega
  rw [hd, mixDivOf_eq_zpow (by decide)]
  norm_num

theorem okPpm_iff (ppm : Int) : okPpm ppm = true ↔ -1000000 < ppm ∧ ppm < 1000000 := by
  rw [okPpm, Bool.and_eq_true, decide_eq_true_eq, decide_eq_true_eq]

theorem correctedCrystal_eq (ppm : Int) : correctedCrystal ppm = 28.8 * (1000000 + (ppm : Rat)) := by
  have hxtal : (XTAL : Rat) = 28800000 := by norm_num [XTAL]
  rw [correctedCrystal, hxtal]
  ring

theorem correctedCrystal_pos {ppm : Int} (h : okPpm ppm = true) : 0 < correctedCrystal ppm := by
  have hlo : (-1000000 : Rat) < ppm := by exact_mod_cast ((okPpm_iff ppm).1 h).1
  rw [correctedCrystal_eq]
  linarith

/-- No crystal the configuration admits is too fast to calibrate, and one above 14 MHz is not too slow (R103 c). -/
theorem synthesizable_calibration_iff {ppm : Int} (h : okPpm ppm = true) :
    synthesizable CAL_FREQ (correctedCrystal ppm) = true ↔ 14000000 < correctedCrystal ppm := by
  have hx := correctedCrystal_pos h
  have hhi : (ppm : Rat) < 1000000 := by exact_mod_cast ((okPpm_iff ppm).1 h).2
  have hvco : (CAL_FREQ : Rat) * mixDivOf (dividerExponent CAL_FREQ) = 1792000000 := by
    rw [mixDivOf_calibration]
    norm_num [CAL_FREQ]
  have hbase : NINT_BASE ≤ nintOf CAL_FREQ (correctedCrystal ppm) := by
    rw [le_nintOf_iff hx, hvco, correctedCrystal_eq]
    norm_num [NINT_BASE]
    linarith
  have hmax : nintOf CAL_FREQ (correctedCrystal ppm) ≤ NINT_MAX ↔ 14000000 < correctedCrystal ppm := by
    rw [← Int.lt_add_one_iff, nintOf_lt_iff hx, hvco]
    norm_num [NINT_MAX]
    constructor <;> intro <;> linarith
  simp only [synthesizable, Bool.and_eq_true, decide_eq_true_eq, hbase, hmax, true_and]

end Reach

/-- Settles O56: the divisor by the bounds of the VCO, which is 1792 MHz in a calibration. -/
theorem synthesisReach : Obligations.SynthesisReach := by
  refine ⟨fun f h => ⟨?nominal, nintOf_nominal_lt_iff h⟩, fun f x hx h hn => ?unreachable, fun ppm h => ?calibration⟩
  case nominal =>
    have hvco := vco_le h
    refine Int.lt_add_one_iff.1 ((nintOf_lt_iff (by norm_num)).2 ?_)
    push_cast
    linarith
  case unreachable =>
    have hvco := vco_le h
    have hle := (le_nintOf_iff hx).1 (Int.add_one_le_iff.2 hn)
    norm_num [NINT_MAX] at hle
    linarith
  case calibration =>
    rw [synthesizable_calibration_iff h, correctedCrystal_eq]
    constructor
    · intro hx
      have hppm : (-513889 : Rat) < ppm := by linarith
      exact_mod_cast hppm
    · intro hppm
      have hle : (-513888 : Rat) ≤ ppm := by exact_mod_cast Int.add_one_le_iff.2 hppm
      linarith

end Sys2Proof.Machine
end

section
/-! SUPPORT. The bytes that whole-register masked writes leave in the shadow bank (R83); and the proof that the registers
of the synthesis end with the packed divisor and the sigma-delta word (R97, R98). -/

namespace Sys2Proof.Machine

/-! ### The last write of a register -/

section Cells

variable {bank : Vector (Option Byte) 27} {a v : Int} {w : MaskedWrite} {ws vs : List MaskedWrite} {i : Fin 27}

/-- A mask of eight bits replaces the byte (R13). -/
theorem maskMerge_all (s v : Byte) : maskMerge s v (byteOf 0xFF) = v := by
  rw [show byteOf 0xFF = BitVec.allOnes 8 by decide, maskMerge, BitVec.not_allOnes, BitVec.and_zero, BitVec.and_allOnes,
    BitVec.zero_or]

/-- Two registers have two cells (R20). -/
theorem shadowIndex_ne {b : Int} (hi : shadowIndex a = some i) (hne : b ≠ a) : shadowIndex b ≠ some i := by
  rw [Ne, shadowIndex_eq_some]
  have ha := shadowIndex_eq_some.1 hi
  omega

/-- A masked write leaves the cells of other registers as they are (R83). -/
theorem maskCell_of_ne (hi : shadowIndex a = some i) (hne : w.addr ≠ a) : (maskCell bank w)[i] = bank[i] := by
  have hother := shadowIndex_ne hi hne
  unfold maskCell
  split
  · rfl
  · rename_i j hj
    have hij : (j : Nat) ≠ i := fun he => hother (Fin.ext he ▸ hj)
    split
    · rfl
    · exact Vector.getElem_set_ne _ _ hij

theorem maskCells_of_ne (hi : shadowIndex a = some i) (h : ∀ w ∈ ws, w.addr ≠ a) :
    (maskCells bank ws)[i] = bank[i] := by
  induction ws generalizing bank with
  | nil => rfl
  | cons w ws ih =>
    obtain ⟨hw, hws⟩ := List.forall_mem_cons.1 h
    exact (ih hws).trans (maskCell_of_ne hi hw)

/-- A register written whole, and not again, ends with the byte of that write (R83, R84). -/
theorem maskCells_last (hfilled : ∀ n : Fin 27, bank[n].isSome = true) (hi : shadowIndex a = some i)
    (h : ∀ w ∈ vs, w.addr ≠ a) : (maskCells bank (ws ++ ⟨a, v, 0xFF⟩ :: vs))[i] = some (byteOf v) := by
  obtain ⟨old, hold⟩ := Option.isSome_iff_exists.1 (maskCells_isSome hfilled ws i)
  rw [maskCells_append]
  refine (maskCells_of_ne (bank := maskCell (maskCells bank ws) ⟨a, v, 0xFF⟩) hi h).trans ?_
  rw [maskCell_of_shadowIndex (w := ⟨a, v, 0xFF⟩) hi hold, maskMerge_all]
  exact Vector.getElem_set_self _

end Cells

/-! ### The registers of the synthesis -/

section Registers

variable {c : Config} {f : Int} {x : Rat} {nudged : Bool} {a : Int}

theorem synthesizable_iff (f : Int) (x : Rat) : synthesizable f x = true ↔ 13 ≤ nintOf f x ∧ nintOf f x ≤ 63 := by
  rw [synthesizable, Bool.and_eq_true, decide_eq_true_eq, decide_eq_true_eq]
  rfl

/-- The word of a synthesis fits its two registers (R98). -/
theorem sdmOf_bounds (f : Int) (hx : 0 < x) : 0 ≤ sdmOf f x ∧ sdmOf f x ≤ 65535 := by
  have hxx : 0 < 2 * x := by linarith
  rw [sdmOf, vcoFraOf, pllFraction, sigmaDelta_eq hx (qmod_nonneg hxx) (qmod_lt hxx)]
  exact floor_sigmaDelta_bounds hx (qmod_nonneg hxx) (qmod_lt hxx)

/-- The writes of a synthesis that follow the sigma-delta word: the nudge where it is made, and the post-lock write
(R99, R101). -/
def lockWrites (c : Config) (nudged : Bool) : List MaskedWrite :=
  (if nudged then [nudgeWrite c] else []) ++ [⟨c.postlockReg, c.postlockVal, c.postlockMask⟩]

theorem pllSynthesisWrites_eq (c : Config) (f : Int) (x : Rat) (nudged : Bool) : pllSynthesisWrites c f x nudged =
    ⟨c.nisiReg, packNint (nintOf f x), 0xFF⟩ ::
    ⟨c.fracReg, if vcoFraOf f x = 0 then c.fracValInt else c.fracValFrac, c.fracMask⟩ ::
    ⟨c.sdmHiReg, sdmOf f x / 256, 0xFF⟩ :: ⟨c.sdmLoReg, sdmOf f x % 256, 0xFF⟩ :: lockWrites c nudged := rfl

theorem lockWrites_addr_ne (hsel : a ≠ c.vcoselReg) (hpost : a ≠ c.postlockReg) :
    ∀ w ∈ lockWrites c nudged, w.addr ≠ a := by
  cases nudged <;> simp [lockWrites, nudgeWrite, hsel.symm, hpost.symm]

end Registers

/-- Settles O30: each of the three registers by its last write. -/
theorem setPllRegisterBytes : Obligations.SetPllRegisterBytes := by
  intro bank c f x nudged i j k hfilled hreach hx hi hj hk hdistinct hother final
  obtain ⟨hlo, hhi⟩ := (synthesizable_iff f x).1 hreach
  obtain ⟨hsdm, hsdm'⟩ := sdmOf_bounds f hx
  simp only [List.nodup_cons, List.mem_cons, List.not_mem_nil, or_false, not_or] at hdistinct
  simp only [List.forall_mem_cons] at hother
  obtain ⟨⟨hnh, hnl⟩, hhl, -⟩ := hdistinct
  obtain ⟨⟨hnf, hns, hnp⟩, ⟨hhf, hhs, hhp⟩, ⟨hlf, hls, hlp⟩, -⟩ := hother
  have hfinal : final = _ := congrArg (maskCells bank) (pllSynthesisWrites_eq c f x nudged)
  have hnisi : final[i] = some (byteOf (packNint (nintOf f x))) := by
    rw [hfinal]
    refine maskCells_last (ws := []) hfilled hi ?_
    simp only [List.forall_mem_cons]
    exact ⟨hnf.symm, Ne.symm hnh, Ne.symm hnl, lockWrites_addr_ne hns hnp⟩
  have hsdmHi : final[j] = some (byteOf (sdmOf f x / 256)) := by
    rw [hfinal]
    refine maskCells_last (ws := [_, _]) hfilled hj ?_
    exact List.forall_mem_cons.2 ⟨Ne.symm hhl, lockWrites_addr_ne hhs hhp⟩
  have hsdmLo : final[k] = some (byteOf (sdmOf f x % 256)) := by
    rw [hfinal]
    exact maskCells_last (ws := [_, _, _]) hfilled hk (lockWrites_addr_ne hls hlp)
  refine ⟨?_, _, _, hsdmHi, hsdmLo, ?_⟩
  · have hpack := packNint_eq hlo hhi
    have hbyte := byteOf_toNat (z := packNint (nintOf f x)) (by omega) (by omega)
    rw [hnisi, Option.map_some, Option.some.injEq]
    omega
  · rw [byteOf_toNat (by omega) (by omega), byteOf_toNat (by omega) (by omega)]
    omega

end Sys2Proof.Machine
end

section
/-! SUPPORT. The commands of the synthesis and of the calibration by their closed forms (R91, R92, R103); and the proofs
that they complete. -/

namespace Sys2Proof.Machine

/-! ### The synthesis and the retuning -/

/-- Settles O29: the synthesis as its closed form says. -/
theorem setPllCompletes : Obligations.SetPllCompletes := by
  intro O s f hs hready hO hf hn a
  exact succeeds_of_yields Value.rat hs (hO.setPll_tuned hs.admissible (at_start hready) hf hn)
    fun v r ⟨hv, h⟩ => ⟨h.frame, congrArg Value.rat hv, h.shadow, h.hasLock, h.pllState⟩

section Retuning

variable {O : Transport} {c : Config} {x : Rat} {k : Nat} {r : Run} {f : Int}

theorem muxWrites_length (hc : Admissible c) (e : MuxEntry) : (muxWrites c.muxFields e).length = 4 := by
  simp [muxWrites, hc.muxFields_length]

/-- The four writes of the multiplexer, and then the synthesis (R91). -/
theorem Faithful.setFrequency_tuned (hO : Faithful O) (hc : Admissible c) (hr : At c x k r) (hf : tunable f = true)
    (hn : NINT_BASE ≤ nintOf f x) :
    (directSetFrequency O f r).Yields fun v r1 => v = pllResult f x ∧ Tuned r (retuning O c f x k) r1 := by
  obtain ⟨hpos, -⟩ := (tunable_iff f).1 hf
  obtain ⟨e, he⟩ := hc.muxEntry f hpos.le
  have hwrites : muxTuningWrites c f = muxWrites c.muxFields e := by rw [muxTuningWrites, he]
  rw [directSetFrequency, hr.directTuner_eq, if_pos hf]
  refine yields_andThen (hO.setMux_wrote hc hr hpos.le he) fun _ r1 h1 => ?_
  rw [muxWrites_length hc, mul_comm] at h1
  refine (hO.setPll_tuned hc (h1.after hr) hf hn).mono fun v r2 ⟨hv, h2⟩ => ⟨hv, ?_⟩
  rw [retuning, hwrites]
  exact h1.toMade.tuned h2

end Retuning

/-- Settles O31: the multiplexer and the synthesis, as the closed form of the two says. -/
theorem setFrequencyCompletes : Obligations.SetFrequencyCompletes := by
  intro O s f hs hready hO hf hn a
  exact succeeds_of_yields Value.rat hs (hO.setFrequency_tuned hs.admissible (at_start hready) hf hn)
    fun v r ⟨hv, h⟩ => ⟨h.frame, congrArg Value.rat hv, h.shadow, h.hasLock, h.pllState⟩

/-! ### The calibration -/

section Calibrations

variable {O : Transport} {c : Config} {x : Rat} {first : Bool} {s : State}

/-- The calibration code is the low nibble of byte 4, the sentinel read as 0 (R103). -/
theorem calibrationCode_toNat (st : List Byte) : (calibrationCode st).toNat =
    if (st.getD 4 0).toNat % 16 = 15 then 0 else (st.getD 4 0).toNat % 16 := by
  have hnibble : (st.getD 4 0 &&& 0x0F).toNat = (st.getD 4 0).toNat % 16 :=
    Nat.and_two_pow_sub_one_eq_mod (st.getD 4 0).toNat 4
  have hsentinel : st.getD 4 0 &&& 0x0F = CAL_SENTINEL ↔ (st.getD 4 0).toNat % 16 = 15 := by
    rw [← hnibble]
    exact BitVec.toNat_inj.symm
  rw [calibrationCode, CAL_BYTE]
  simp only [hsentinel, apply_ite BitVec.toNat, hnibble]
  rfl

/-- A code is a nibble other than the sentinel. -/
theorem calibrationCode_le (st : List Byte) : (calibrationCode st).toNat ≤ 14 := by
  rw [calibrationCode_toNat]
  split <;> omega

/-- No second pass is made (R103). -/
theorem calibration_once {k : Nat} (h : first = false ∨ (calibrationPass O c x k).code = 0) :
    calibration O c x first k = calibrationPass O c x k := by
  refine if_neg fun ⟨_, hcode, hfirst⟩ => ?_
  rcases h with h | h
  · rw [h] at hfirst; cases hfirst
  · exact hcode h

/-- A second pass is made after a first one that locks and reads a code other than 0 (R103). -/
theorem calibration_twice {k : Nat} {one two : Calibration} (hone : calibrationPass O c x k = one)
    (htwo : calibrationPass O c x (k + one.count) = two) (hlock : one.locked = true) (hcode : one.code ≠ 0) :
    calibration O c x true k =
      { two with writes := one.writes ++ two.writes, count := one.count + two.count } := by
  subst hone htwo
  exact if_pos ⟨hlock, hcode, rfl⟩

/-- A calibration that locks completes with the code of its status (R103). -/
theorem Faithful.calibrateFilter_succeeds (hO : Faithful O) (hs : ReadyInternal s) (hready : TunerReady s)
    (hn : NINT_BASE ≤ nintOf CAL_FREQ (crystal s)) {a : Calibration} (ha : calibration O s.cfg (crystal s) first 0 = a)
    (hlock : a.locked = true) : Succeeds O (.tunerCalibrateFilter first) s fun v t =>
      SameButTuning s t ∧ t.hasLock = true ∧ t.pllState = .locked ∧ t.shadow = maskCells s.shadow a.writes ∧
      ∃ code : Int, v = .int code ∧ 0 ≤ code ∧ code ≤ 14 ∧
        code = if (a.status.getD 4 0).toNat % 16 = 15 then 0 else (a.status.getD 4 0).toNat % 16 := by
  subst ha
  refine succeeds_of_yields Value.int hs (hO.calibrateFilter_tuned hs.admissible (at_start hready) hn hlock)
    fun v r ⟨hv, h⟩ => ⟨h.frame, h.hasLock.trans hlock, ?_, h.shadow, v, rfl, ?_⟩
  · rw [h.pllState, hlock]; rfl
  · rw [hv, Calibration.code]
    exact ⟨Int.natCast_nonneg _, Int.ofNat_le.2 (calibrationCode_le _), by exact_mod_cast calibrationCode_toNat _⟩

end Calibrations

/-- Settles O33: one pass or two, by the closed form of the calibration. -/
theorem calibrateFilterCompletes : Obligations.CalibrateFilterCompletes := by
  intro O s first hs hready hO hn one two final
  refine ⟨fun hlock hend => ?once, fun hlock hfirst hcode hlock' => ?twice⟩
  case once => exact hO.calibrateFilter_succeeds hs hready hn (calibration_once hend) hlock
  case twice =>
    subst hfirst
    have htwo : calibrationPass O s.cfg (crystal s) (0 + one.count) = two := by rw [Nat.zero_add]
    exact hO.calibrateFilter_succeeds hs hready hn (calibration_twice rfl htwo hlock hcode) hlock'

end Sys2Proof.Machine
end

section
/-! SUPPORT. Lock detection under known answers (R101, R102): the exact primitives of an attempt and of the nudge; and
the proof that `getPllLock` completes with one nudge at most. -/

namespace Sys2Proof.Machine

section Lock

variable {O : Transport} {s : State} {r : Run} {x y raw raw' : List Byte} {ps qs : List Primitive} {as bs : List Answer}

theorem sent_sent (r : Run) (ps qs : List Primitive) (as bs : List Answer) :
    (r.sent ps as).sent qs bs = r.sent (ps ++ qs) (as ++ bs) := by
  simp only [Run.sent, List.append_assoc]

/-- The answers to a list of primitives are those to its parts in turn. -/
theorem gives_append_iff (hlen : as.length = ps.length) :
    Gives O r (ps ++ qs) (as ++ bs) ↔ Gives O r ps as ∧ Gives O (r.sent ps as) qs bs := by
  induction ps generalizing r as with
  | nil =>
    obtain rfl := List.eq_nil_of_length_eq_zero hlen
    simp [Gives, Run.sent]
  | cons p ps ih =>
    cases as with
    | nil => cases hlen
    | cons a as => simp only [List.cons_append, Gives, ih (Nat.succ.inj hlen), asked_sent, and_assoc]

/-- What a transport answers depends on how many primitives came before (R37). -/
theorem Gives.congr {r' : Run} (h : Gives O r ps as) (hr : r'.answers = r.answers) : Gives O r' ps as := by
  induction ps generalizing r r' as with
  | nil =>
    cases as with
    | nil => trivial
    | cons a as => cases h
  | cons p ps ih =>
    cases as with
    | nil => cases h
    | cons a as =>
      obtain ⟨hhead, htail⟩ := h
      exact ⟨by rw [hr]; exact hhead, ih htail (congrArg (· ++ [a]) hr)⟩

/-- The lock bit of a status buffer as it comes from the tuner, its bytes still to be reversed (R101). -/
def lockedBy (c : Config) (raw : List Byte) : Bool := lockBitSet (raw.map (bitrev c.bitrevMode))

/-- The primitives of a lock read (R101). -/
def lockPrims (c : Config) : List Primitive := i2cReadPrims c 0x34 c.lockAddr 3

/-- Where the tuner can be reached, it is present (R79). -/
theorem TunerReachable.directTuner_eq {α : Type} (hs : TunerReachable r.state) (y : Result α) :
    directTuner r y = y := by
  obtain ⟨htuner, -⟩ := hs
  exact if_pos htuner

/-- A lock attempt enters its state, reads the status and tests the lock bit (R101). -/
theorem directAttempt_ok (hs : TunerReachable r.state) (hc : Admissible r.state.cfg) (a : Attempt)
    (hlen : raw.length = 3) (h : Gives O r (lockPrims r.state.cfg) [.ok x, .ok raw]) :
    directAttempt O a r = .ok (lockedBy r.state.cfg raw)
      ((r.write { r.state with pllState := attemptState a }).sent (lockPrims r.state.cfg) [.ok x, .ok raw]) := by
  obtain ⟨htuner, hopen⟩ := hs
  have hread := directReadRegBuffer_ok (O := O) (r := r.write { r.state with pllState := attemptState a })
    (a := r.state.cfg.lockAddr) (n := LOCK_LEN) htuner hopen (by omega) (by decide) (by exact_mod_cast hc.lock) hlen h
  rw [directAttempt, hread]
  rfl

/-- The lock flag and the tuning state are those of the last lock read (R101, R102). -/
def State.decided (s : State) (b : Bool) : State :=
  { s with hasLock := b, pllState := if b then .locked else .unlocked }

theorem directSecondAttempt_ok (hs : TunerReachable r.state) (hc : Admissible r.state.cfg) (hlen : raw.length = 3)
    (h : Gives O r (lockPrims r.state.cfg) [.ok x, .ok raw]) :
    directSecondAttempt O r = .ok (lockedBy r.state.cfg raw)
      ((r.write (r.state.decided (lockedBy r.state.cfg raw))).sent (lockPrims r.state.cfg) [.ok x, .ok raw]) := by
  rw [directSecondAttempt, directAttempt_ok hs hc .second hlen h]
  cases lockedBy r.state.cfg raw <;> rfl

/-- A first attempt that reads the lock bit set (R101). -/
theorem directGetPllLock_locked (hs : TunerReachable r.state) (hc : Admissible r.state.cfg) (hlen : raw.length = 3)
    (hlock : lockedBy r.state.cfg raw = true) (h : Gives O r (lockPrims r.state.cfg) [.ok x, .ok raw]) :
    directGetPllLock O true r =
      .ok true ((r.write (r.state.decided true)).sent (lockPrims r.state.cfg) [.ok x, .ok raw]) := by
  rw [directGetPllLock, hs.directTuner_eq, if_pos rfl, directAttempt_ok hs hc .first hlen h, hlock]
  rfl

/-- With `first` false the one attempt decides (R101). -/
theorem directGetPllLock_once (hs : TunerReachable r.state) (hc : Admissible r.state.cfg) (hlen : raw.length = 3)
    (h : Gives O r (lockPrims r.state.cfg) [.ok x, .ok raw]) :
    directGetPllLock O false r = .ok (lockedBy r.state.cfg raw)
      ((r.write (r.state.decided (lockedBy r.state.cfg raw))).sent (lockPrims r.state.cfg) [.ok x, .ok raw]) := by
  rw [directGetPllLock, hs.directTuner_eq]
  exact directSecondAttempt_ok hs hc hlen h

/-- The primitives of the nudge where the cell of the VCO select register holds `old` (R83, R101). -/
def nudgePrims (c : Config) (old : Byte) : List Primitive :=
  i2cWritePrims c 0x34 c.vcoselReg [maskMerge old (byteOf c.vcoselVal) (byteOf c.vcoselMask)]

/-- The nudge is a masked write of the VCO select field (R83, R101). -/
theorem directNudge_ok {i : Fin 27} {old : Byte} (hs : TunerReachable r.state) (hc : Admissible r.state.cfg)
    (hi : shadowIndex r.state.cfg.vcoselReg = some i) (hold : r.state.shadow[i] = some old)
    (h : Gives O r (nudgePrims r.state.cfg old) as) (hok : AllOk as) :
    directMasked O (nudgeWrite r.state.cfg) r = .ok ()
      ((r.write { r.state with shadow := maskCell r.state.shadow (nudgeWrite r.state.cfg) }).sent
        (nudgePrims r.state.cfg old) as) := by
  obtain ⟨htuner, hopen⟩ := hs
  obtain ⟨-, hmask⟩ := (okWrite_iff _).1 hc.nudge
  rw [maskCell_of_shadowIndex (w := nudgeWrite r.state.cfg) hi hold]
  exact directMasked_ok htuner hopen hi hold hmask (h.congr rfl) hok

/-- After the nudge the second attempt decides (R101). -/
theorem directNudgeThenSecond_ok {i : Fin 27} {old : Byte} (hs : TunerReachable r.state) (hc : Admissible r.state.cfg)
    (hi : shadowIndex r.state.cfg.vcoselReg = some i) (hold : r.state.shadow[i] = some old) (hlen : raw.length = 3)
    (hcount : as.length = (nudgePrims r.state.cfg old).length) (hok : AllOk as)
    (h : Gives O r (nudgePrims r.state.cfg old ++ lockPrims r.state.cfg) (as ++ [.ok x, .ok raw])) :
    ((directMasked O (nudgeWrite r.state.cfg) r).andThen fun _ r => directSecondAttempt O r) =
      .ok (lockedBy r.state.cfg raw) ((r.write { r.state.decided (lockedBy r.state.cfg raw) with
        shadow := maskCell r.state.shadow (nudgeWrite r.state.cfg) }).sent
        (nudgePrims r.state.cfg old ++ lockPrims r.state.cfg) (as ++ [.ok x, .ok raw])) := by
  obtain ⟨hnudge, hread⟩ := (gives_append_iff hcount).1 h
  rw [directNudge_ok hs hc hi hold hnudge hok, ← sent_sent]
  exact directSecondAttempt_ok hs hc hlen (hread.congr rfl)

/-- A first attempt that reads the lock bit clear is followed by the nudge and the second (R101). -/
theorem directGetPllLock_nudged {i : Fin 27} {old : Byte} (hs : TunerReachable r.state) (hc : Admissible r.state.cfg)
    (hi : shadowIndex r.state.cfg.vcoselReg = some i) (hold : r.state.shadow[i] = some old) (hlen : raw.length = 3)
    (hlen' : raw'.length = 3) (hlock : lockedBy r.state.cfg raw = false)
    (hcount : as.length = (nudgePrims r.state.cfg old).length) (hok : AllOk as)
    (h : Gives O r (lockPrims r.state.cfg ++ nudgePrims r.state.cfg old ++ lockPrims r.state.cfg)
      ([.ok x, .ok raw] ++ as ++ [.ok y, .ok raw'])) :
    directGetPllLock O true r = .ok (lockedBy r.state.cfg raw')
      ((r.write { r.state.decided (lockedBy r.state.cfg raw') with
        shadow := maskCell r.state.shadow (nudgeWrite r.state.cfg) }).sent
        (lockPrims r.state.cfg ++ nudgePrims r.state.cfg old ++ lockPrims r.state.cfg)
        ([.ok x, .ok raw] ++ as ++ [.ok y, .ok raw'])) := by
  simp only [List.append_assoc] at h ⊢
  obtain ⟨hread, hrest⟩ := (gives_append_iff (as := [.ok x, .ok raw]) rfl).1 h
  rw [directGetPllLock, hs.directTuner_eq, if_pos rfl, directAttempt_ok hs hc .first hlen hread, hlock, ← sent_sent]
  exact directNudgeThenSecond_ok hs hc hi hold hlen' hcount hok (hrest.congr rfl)

end Lock

/-- Settles O32: the first attempt, the one attempt, and the two with the nudge between them. -/
theorem getPllLockCompletes : Obligations.GetPllLockCompletes := by
  intro s x y raw raw' first as hs ⟨hreach, _⟩ hlen hlen' hok rd locked nudge final
  have hc := hs.admissible
  have hread : Gives (scripted [.ok x, .ok raw]) (Run.start s) (lockPrims s.cfg) [.ok x, .ok raw] := gives_scripted rfl
  have honce := directGetPllLock_once (r := Run.start s) hreach hc hlen hread
  refine ⟨fun hlock => ?locked, fun hlock => ?unlocked, fun hlock i old hi hold hcount => ?nudged⟩
  case locked =>
    cases first with
    | true =>
      have hfirst := directGetPllLock_locked (r := Run.start s) hreach hc hlen hlock hread
      exact completes_of_scripted Value.bool hs hfirst
    | false =>
      rw [show lockedBy (Run.start s).state.cfg raw = true from hlock] at honce
      exact completes_of_scripted Value.bool hs honce
  case unlocked =>
    rw [show lockedBy (Run.start s).state.cfg raw = false from hlock] at honce
    exact completes_of_scripted Value.bool hs honce
  case nudged =>
    have hgives : Gives (scripted ([.ok x, .ok raw] ++ as ++ [.ok y, .ok raw'])) (Run.start s)
        (lockPrims s.cfg ++ nudgePrims s.cfg old ++ lockPrims s.cfg) ([.ok x, .ok raw] ++ as ++ [.ok y, .ok raw']) :=
      gives_scripted (by simp only [List.length_append, hcount]; rfl)
    exact completes_of_scripted Value.bool hs
      (directGetPllLock_nudged (r := Run.start s) hreach hc hi hold hlen hlen' hlock hcount hok hgives)

end Sys2Proof.Machine
end

section
/-! SUPPORT. Rounding and clamping (R10, R12), the gain step by the range its polynomial's value is in (R107), and its
two halves (R108); and the proof of the split that the rules state (R111). -/

namespace Sys2Proof.Machine

/-! ### Rounding and clamping -/

section Arithmetic

variable {q : Rat} {n lo hi x : Int}

theorem le_round_iff : n ≤ round q ↔ (n : Rat) - 1 / 2 ≤ q := by
  rw [round, Rat.le_floor_iff, sub_le_iff_le_add]

theorem round_lt_iff : round q < n ↔ q < (n : Rat) - 1 / 2 := by
  rw [round, Rat.floor_lt_iff, lt_sub_iff_add_lt]

/-- A number is rounded to the integer within half of it, upward in the middle (R12). -/
theorem round_bounds (q : Rat) : (round q : Rat) ≤ q + 1 / 2 ∧ q - 1 / 2 < (round q : Rat) := by
  have hle : (round q : Rat) - 1 / 2 ≤ q := le_round_iff.1 le_rfl
  have hlt : q < ((round q + 1 : Int) : Rat) - 1 / 2 := round_lt_iff.1 (lt_add_one _)
  push_cast at hlt
  constructor <;> linarith

theorem clamp_bounds (h : lo ≤ hi) (x : Int) : lo ≤ clamp lo hi x ∧ clamp lo hi x ≤ hi :=
  ⟨le_min h (le_max_left lo x), min_le_left hi _⟩

theorem clamp_eq_self (hlo : lo ≤ x) (hhi : x ≤ hi) : clamp lo hi x = x := by
  rw [clamp, max_eq_right hlo, min_eq_right hhi]

theorem clamp_eq_low (h : lo ≤ hi) (hx : x ≤ lo) : clamp lo hi x = lo := by
  rw [clamp, max_eq_left hx, min_eq_right h]

theorem clamp_eq_high (hx : hi ≤ x) : clamp lo hi x = hi :=
  min_eq_left (hx.trans (le_max_right lo x))

end Arithmetic

/-! ### The gain step -/

section GainStep

variable {c : Config} {g : Rat}

theorem gainStep_bounds (c : Config) (g : Rat) : 0 ≤ gainStep c g ∧ gainStep c g ≤ 30 :=
  clamp_bounds (by decide) _

/-- A value that rounds into 0..30 is not clamped (R107). -/
theorem gainStep_eq_round (hlo : -1 / 2 ≤ Cubic.eval (gainPoly c g) g) (hhi : Cubic.eval (gainPoly c g) g < 61 / 2) :
    gainStep c g = round (Cubic.eval (gainPoly c g) g) := by
  have h0 : 0 ≤ round (Cubic.eval (gainPoly c g) g) := le_round_iff.2 (by norm_num; linarith)
  have h31 : round (Cubic.eval (gainPoly c g) g) < 31 := round_lt_iff.2 (by norm_num; linarith)
  exact clamp_eq_self h0 (Int.lt_add_one_iff.1 h31)

theorem gainStep_eq_zero (h : Cubic.eval (gainPoly c g) g < -1 / 2) : gainStep c g = 0 := by
  have hround : round (Cubic.eval (gainPoly c g) g) < 0 := round_lt_iff.2 (by norm_num; linarith)
  exact clamp_eq_low (by decide) hround.le

theorem gainStep_eq_max (h : 61 / 2 ≤ Cubic.eval (gainPoly c g) g) : gainStep c g = 30 := by
  have hround : 31 ≤ round (Cubic.eval (gainPoly c g) g) := le_round_iff.2 (by norm_num; linarith)
  exact clamp_eq_high ((show (30 : Int) ≤ 31 by decide).trans hround)

end GainStep

/-! ### The split -/

section Split

variable {n : Int}

theorem lnaStep_bracket (n : Int) : 2 * lnaStep n ≤ n ∧ n < 2 * lnaStep n + 2 := by
  unfold lnaStep
  omega

/-- The mixer step is the LNA step of one less (R108). -/
theorem mixStep_eq_lnaStep (n : Int) : mixStep n = lnaStep (n - 1) := rfl

theorem mixStep_bracket (n : Int) : 2 * mixStep n ≤ n - 1 ∧ n - 1 < 2 * mixStep n + 2 :=
  lnaStep_bracket (n - 1)

theorem lnaStep_bounds (h0 : 0 ≤ n) (h : n ≤ 30) : 0 ≤ lnaStep n ∧ lnaStep n ≤ 15 := by
  have hlna := lnaStep_bracket n
  omega

theorem mixStep_bounds (h0 : 0 ≤ n) (h : n ≤ 30) : -1 ≤ mixStep n ∧ mixStep n ≤ 14 := by
  have hmix := mixStep_bracket n
  omega

/-- Of two integers in a row the halves add up to the lower one (R108). -/
theorem lnaStep_add_mixStep (n : Int) : lnaStep n + mixStep n = n - 1 := by
  have hlna := lnaStep_bracket n
  have hmix := mixStep_bracket n
  omega

theorem lnaStep_sub_mixStep (n : Int) : lnaStep n - mixStep n = if n % 2 = 0 then 1 else 0 := by
  have hlna := lnaStep_bracket n
  have hmix := mixStep_bracket n
  split <;> omega

end Split

/-- Settles O57: the step by the three ranges of the polynomial's value, and the split of any integer. -/
theorem gainSplit : Obligations.GainSplit := by
  intro c g st x
  obtain ⟨h0, h30⟩ := gainStep_bounds c g
  obtain ⟨hlna, hlna'⟩ := lnaStep_bracket st
  obtain ⟨hmix, hmix'⟩ := mixStep_bracket st
  obtain ⟨hl0, hl15⟩ := lnaStep_bounds h0 h30
  obtain ⟨hm1, hm14⟩ := mixStep_bounds h0 h30
  have hrounded : -1 / 2 ≤ x → x < 61 / 2 → (st : Rat) ≤ x + 1 / 2 ∧ x - 1 / 2 < (st : Rat) := by
    intro hlo hhi
    have hst : st = round x := gainStep_eq_round hlo hhi
    exact hst ▸ round_bounds x
  exact ⟨h0, h30, hrounded, gainStep_eq_zero, gainStep_eq_max, hlna, hlna', hmix, hmix', hl0, hl15, hm1, hm14,
    lnaStep_add_mixStep st, lnaStep_sub_mixStep st⟩

end Sys2Proof.Machine
end

section
/-! SUPPORT. Where the external commands stop at their first statements (R112, R118, R121, R123), and the proofs that they
fault there before any traffic. -/

namespace Sys2Proof.Machine

section Sessions

variable {s : State} {want : Session} {op : Op} {act : Act}

/-- In another session the check of R112 faults, whatever comes after it. -/
theorem begin_wrongSession (h : s.session ≠ want)
    (hop : enterOp op { s with latch := .unit } = requireSession want { s with latch := .unit } act := by rfl) :
    begin op s = .fault .wrongSessionState := begin_of_fault (hop.trans (if_neg h))

/-- In the session it requires, a command faults where the statements after the check do. -/
theorem begin_fault_of_session {x : Fault} (h : s.session = want) (hact : act = .fault x)
    (hop : enterOp op { s with latch := .unit } = requireSession want { s with latch := .unit } act := by rfl) :
    begin op s = .fault x := begin_of_fault (hop.trans ((if_pos h).trans hact))

end Sessions

/-- Settles O42: each command by its session check. -/
theorem externalNeedsSession : Obligations.ExternalNeedsSession := by
  intro s n g
  refine ⟨fun h => begin_wrongSession h, fun h => ?_⟩
  simp only [List.forall_mem_cons]
  exact ⟨begin_wrongSession h, begin_wrongSession h, begin_wrongSession h, begin_wrongSession h, begin_wrongSession h,
    begin_wrongSession h, List.forall_mem_nil _⟩

/-- Settles O46: each command by the check that follows its session check. -/
theorem controllerCommandFaults : Obligations.ControllerCommandFaults := by
  intro s ⟨_, hsession⟩
  refine ⟨fun rate h => ?rate, fun f h => ?frequency, fun n h => ?count, fun n h hstream => ?stream⟩
  case rate =>
    refine begin_fault_of_session hsession ?_
    split
    · rfl
    · exact if_pos (h.resolve_left ‹_›)
  case frequency => exact begin_fault_of_session hsession (if_pos h)
  case count => exact begin_fault_of_session hsession (if_pos h)
  case stream =>
    have hnot : ¬ s.streamReady = true := by simp [hstream]
    exact begin_fault_of_session hsession ((if_neg (not_lt.2 h)).trans (if_neg hnot))

end Sys2Proof.Machine
end

section
/-! SUPPORT. The crystal frequency and the IF multiplier by the range of ppm (R114, R115), and the resampling ratio by the
bits its mask keeps (R119); and the proofs of what the rules say of them. -/

namespace Sys2Proof.Machine

/-- Settles O59: no crystal the configuration admits reaches IF_FREQ * 2^22, so the floor is at least 1. -/
theorem crystalFrequency : Obligations.CrystalFrequency := by
  intro ppm h
  have hpos := correctedCrystal_pos h
  have hhi : (ppm : Rat) < 1000000 := by exact_mod_cast ((okPpm_iff ppm).1 h).2
  have hxtal : (XTAL : Rat) = 28800000 := by norm_num [XTAL]
  have hif : (IF_FREQ : Rat) = 3570000 := by norm_num [IF_FREQ]
  have hfloor : 1 ≤ ((IF_FREQ : Rat) * 4194304 / correctedCrystal ppm).floor := by
    rw [Rat.le_floor_iff, le_div_iff₀ hpos, hif, correctedCrystal_eq]
    norm_num
    linarith
  exact ⟨by rw [correctedCrystal, hxtal], hpos, by unfold ifMultiplier; omega, by rw [ifMultiplier, hif]⟩

/-! ### The mask of the ratio -/

/-- The mask of R119 keeps bits 27..2. -/
theorem testBit_ratioMask (i : Nat) : (0x0FFFFFFC : Nat).testBit i = decide (2 ≤ i ∧ i ≤ 27) := by
  rw [show 0x0FFFFFFC = (2 ^ 26 - 1) <<< 2 by decide, Nat.testBit_shiftLeft, Nat.testBit_two_pow_sub_one]
  by_cases h : 2 ≤ i
  · simp only [h, decide_true, true_and, Bool.true_and]
    exact decide_eq_decide.2 (by omega)
  · simp [h]

/-- What the mask keeps, as a number (R119). -/
theorem and_ratioMask (n : Nat) : n &&& 0x0FFFFFFC = n / 4 % 2 ^ 26 * 4 := by
  refine Nat.eq_of_testBit_eq fun i => ?_
  rw [show n / 4 % 2 ^ 26 * 4 = (n >>> 2 % 2 ^ 26) <<< 2 by rw [Nat.shiftLeft_eq, Nat.shiftRight_eq_div_pow],
    Nat.testBit_and, testBit_ratioMask, Nat.testBit_shiftLeft, Nat.testBit_mod_two_pow, Nat.testBit_shiftRight]
  by_cases h : 2 ≤ i
  · simp only [h, decide_true, true_and, Bool.true_and, Nat.add_sub_cancel' h, Bool.and_comm]
    congr 1
    exact decide_eq_decide.2 (by omega)
  · simp [h]

/-! ### The ratio -/

section Ratio

variable {rate : Int}

/-- The ratio before the mask is a floored quotient of integers (R119). -/
theorem floor_ratio (h : 0 < rate) : ((28800000 * 4194304 : Rat) / rate).floor = XTAL * 4194304 / rate := by
  lift rate to Nat using h.le
  have hfloor := Rat.floor_intCast_div_natCast (XTAL * 4194304) rate
  rwa [show ((XTAL * 4194304 : Int) : Rat) = 28800000 * 4194304 by norm_num [XTAL]] at hfloor

/-- Above 450000 Hz the mask loses no bit above 27 (R119). -/
theorem sampleRatio_eq (h : 450000 < rate) :
    (sampleRatio rate : Int) = XTAL * 4194304 / rate - XTAL * 4194304 / rate % 4 := by
  have hlt : XTAL * 4194304 / rate < 2 ^ 28 := Int.ediv_lt_of_lt_mul (by omega) (by unfold XTAL; omega)
  have hnonneg : 0 ≤ XTAL * 4194304 / rate := Int.ediv_nonneg (by decide) (by omega)
  rw [sampleRatio, and_ratioMask]
  omega

/-- The ratio vanishes where the quotient is below 4 (R119). -/
theorem sampleRatio_ne_zero_iff (h : 450000 < rate) : sampleRatio rate ≠ 0 ↔ rate ≤ 28800000 * 1048576 := by
  have hratio := sampleRatio_eq h
  have hfour : 4 ≤ XTAL * 4194304 / rate ↔ 4 * rate ≤ XTAL * 4194304 := Int.le_ediv_iff_mul_le (by omega)
  have hnonneg : 0 ≤ XTAL * 4194304 / rate := Int.ediv_nonneg (by decide) (by omega)
  unfold XTAL at *
  omega

/-- What the mask and the floor leave out of the quotient is less than 4 (R119). -/
theorem sampleRatio_mul_bounds (h : 450000 < rate) :
    sampleRatio rate * rate ≤ XTAL * 4194304 ∧ XTAL * 4194304 < (sampleRatio rate + 4) * rate := by
  have hrate : 0 < rate := by omega
  have hratio := sampleRatio_eq h
  have hle := Int.ediv_mul_le (XTAL * 4194304) hrate.ne'
  have hlt := Int.lt_ediv_add_one_mul_self (XTAL * 4194304) hrate
  exact ⟨(mul_le_mul_of_nonneg_right (by omega) hrate.le).trans hle,
    hlt.trans_le (mul_le_mul_of_nonneg_right (by omega) hrate.le)⟩

/-- The rate a ratio achieves, with XTAL as its number (R119). -/
theorem achievedRate_eq (ratio : Nat) : achievedRate ratio = 28800000 * 4194304 / (ratio : Rat) := by
  rw [achievedRate, show (XTAL : Rat) = 28800000 by norm_num [XTAL]]

/-- The achieved rate is at least the requested one, by less than the four lost units of the ratio (R119 a). -/
theorem achievedRate_bounds (h : 450000 < rate) (hne : sampleRatio rate ≠ 0) :
    0 ≤ achievedRate (sampleRatio rate) - rate ∧
      achievedRate (sampleRatio rate) - rate < 4 * (rate : Rat) / (sampleRatio rate : Rat) := by
  obtain ⟨hle, hlt⟩ := sampleRatio_mul_bounds h
  have hpos : (0 : Rat) < sampleRatio rate := Nat.cast_pos.2 (Nat.pos_of_ne_zero hne)
  have hle' : (sampleRatio rate : Rat) * rate ≤ 28800000 * 4194304 := by unfold XTAL at hle; exact_mod_cast hle
  have hlt' : (28800000 * 4194304 : Rat) < (sampleRatio rate + 4) * rate := by unfold XTAL at hlt; exact_mod_cast hlt
  rw [achievedRate_eq, sub_nonneg, le_div_iff₀' hpos, sub_lt_iff_lt_add, div_add' _ _ _ hpos.ne',
    div_lt_div_iff_of_pos_right hpos]
  constructor <;> linarith

end Ratio

/-- Settles O58: the ratio bit by bit, and above 450000 Hz as the quotient less its remainder by 4. -/
theorem sampleRatio_spec : Obligations.SampleRatio := by
  intro rate hrate q ratio
  have hq : q = XTAL * 4194304 / rate := floor_ratio hrate
  have hmask : ratio = (XTAL * 4194304 / rate).toNat / 4 % 2 ^ 26 * 4 := and_ratioMask _
  refine ⟨fun i => ?_, by omega, by omega, fun h => ⟨?_, sampleRatio_ne_zero_iff h, fun hne => ⟨achievedRate_eq _, ?_⟩⟩⟩
  · rw [hq, Bool.and_comm, ← testBit_ratioMask, ← Nat.testBit_and]
    rfl
  · rw [hq]
    exact sampleRatio_eq h
  · exact achievedRate_bounds h hne

end Sys2Proof.Machine
end

section
/-! SUPPORT. How many primitives the RegisterBus operations issue (R75, R157). -/

namespace Sys2Proof.Machine

/-- From `r` to `r1` the transport has answered `n` primitives. -/
def Asks (n : Nat) (r r1 : Run) : Prop := r1.answers.length = r.answers.length + n

section Counts

variable {O : Transport} {r r1 r2 : Run} {n m : Nat}

theorem Asks.trans (h : Asks n r r1) (h' : Asks m r1 r2) : Asks (n + m) r r2 := by
  unfold Asks at *
  omega

theorem ask_asks (p : Primitive) (r : Run) : (ask O p r).When fun _ r1 => Asks 1 r r1 := by
  unfold ask
  simp only
  split
  · exact when_ok (List.length_append ..)
  · exact when_error

theorem directDecode_asks {d : Value} (h : Asks n r r1) : (directDecode d r1).When fun _ r2 => Asks n r r2 :=
  when_mono (decode_frame d r1) fun _ _ e => e ▸ h

theorem writeReg_asks (b a v w : Int) (r : Run) : (directWriteReg O b a v w r).When fun _ r1 => Asks 1 r r1 := by
  unfold directWriteReg
  split
  · exact when_fault
  split
  · split
    · exact when_stop
    · exact when_andThen (ask_asks _ _) fun _ _ h => when_ok h
  · exact when_fault

theorem readReg_asks (b a w : Int) (r : Run) : (directReadReg O b a w r).When fun _ r1 => Asks 1 r r1 := by
  unfold directReadReg
  split
  · exact when_fault
  split
  · split
    · exact when_andThen (ask_asks _ _) fun _ _ h => directDecode_asks h
    · exact when_error
  · exact when_fault

/-- A masked write is one transfer, or a read and a write (R66). -/
theorem writeRegMask_asks (b a v m : Int) (r : Run) :
    (directWriteRegMask O b a v m r).When fun _ r1 => Asks (if m = 0xFF then 1 else 2) r r1 := by
  unfold directWriteRegMask
  split
  · split
    · exact writeReg_asks ..
    · exact when_andThen (readReg_asks ..) fun _ _ h => when_mono (writeReg_asks ..) fun _ _ h' => h.trans h'
  · exact when_fault

theorem readDemodReg_asks (p a : Int) (r : Run) : (directReadDemodReg O p a r).When fun _ r1 => Asks 1 r r1 := by
  unfold directReadDemodReg
  split
  · split
    · exact when_andThen (ask_asks _ _) fun _ _ h => directDecode_asks h
    · exact when_fault
  · exact when_fault

/-- A demodulator write is followed by its poll (R67). -/
theorem writeDemodReg_asks (p a v w : Int) (r : Run) :
    (directWriteDemodReg O p a v w r).When fun _ r1 => Asks 2 r r1 := by
  unfold directWriteDemodReg
  split
  · split
    · split
      · exact when_stop
      · exact when_andThen (ask_asks _ _) fun _ _ h => when_andThen (readDemodReg_asks ..) fun _ _ h' => when_ok (h.trans h')
    · exact when_fault
  · exact when_fault

/-- A register write through the I2C proxy has two transfers, or one, as the write form says (R32). -/
theorem i2cWrite_asks (d a : Int) (bs : List Byte) (r : Run) :
    (directI2CWrite O d a bs r).When fun _ r1 => Asks (writeCount r.state.cfg) r r1 := by
  cases hform : r.state.cfg.i2cWriteForm with
  | twoPhase =>
    simp only [directI2CWrite, writeCount, hform]
    exact when_andThen (ask_asks _ _) fun _ _ h => when_andThen (ask_asks _ _) fun _ _ h' => when_ok (h.trans h')
  | combined =>
    simp only [directI2CWrite, writeCount, hform]
    exact when_andThen (ask_asks _ _) fun _ _ h => when_ok h

theorem writeI2CReg_asks (d a v : Int) (r : Run) :
    (directWriteI2CReg O d a v r).When fun _ r1 => Asks (writeCount r.state.cfg) r r1 := by
  unfold directWriteI2CReg
  split
  · split
    · exact i2cWrite_asks ..
    · exact when_fault
  · exact when_fault

theorem record_asks (c : WriteCommand) (r : Run) :
    (directRecord O c r).When fun _ r1 => Asks (recordCount r.state.cfg c) r r1 := by
  cases c with
  | reg b a v w => exact writeReg_asks ..
  | regMask b a v m => exact writeRegMask_asks ..
  | demodReg p a v w => exact writeDemodReg_asks ..
  | i2cReg d a v => exact writeI2CReg_asks ..
  | unknown tag fields =>
    rw [directRecord]
    split
    · exact when_fault
    · exact when_error

/-- A batch issues the primitives of its records (R75). -/
theorem writeEach_asks (cs : List WriteCommand) (r : Run) :
    (directWriteEach O cs r).When fun _ r1 => Asks (batchCount r.state.cfg cs) r r1 := by
  induction cs generalizing r with
  | nil => exact when_ok rfl
  | cons c cs ih =>
    refine when_andThen (when_and (record_asks c r) (record_frame c r)) fun _ r1 ⟨h, hsame⟩ =>
      when_mono (ih r1) fun _ r2 h' => ?_
    rw [show r1.state.cfg = r.state.cfg by rw [hsame]] at h'
    exact h.trans h'

end Counts

end Sys2Proof.Machine
end

section
/-! SUPPORT. The operations that the external commands are made of, under a transport that answers: the state each comes
to and the number of its primitives; and the proofs that the commands on an open session complete (R116 to R125). -/

namespace Sys2Proof.Machine

/-! ### Coming to a known state -/

/-- From `r` to `r1` the block has come to the state `u`, but for the record of primitives, with `n` primitives. -/
structure Comes (r : Run) (u : State) (n : Nat) (r1 : Run) : Prop where
  frame : SameButTrace u r1.state
  asks : Asks n r r1

section Frames

variable {s t : State}

/-- A state write that the record of primitives plays no part in. -/
theorem SameButTrace.write (g : State → State) (h : SameButTrace s t)
    (hg : ∀ u tr, ∃ tr', g { u with trace := tr } = { g u with trace := tr' } := by exact fun _ _ => ⟨_, rfl⟩) :
    SameButTrace (g s) (g t) := by
  obtain ⟨tr', htr⟩ := hg s t.trace
  rw [show t = { s with trace := t.trace } from h, htr]
  rfl

theorem SameButShadow.setI2C (h : SameButShadow s t) (b : Bool) :
    SameButShadow { s with i2cOpen := b } { t with i2cOpen := b } := by
  unfold SameButShadow at *
  rw [h]

theorem SameButTuning.setI2C (h : SameButTuning s t) (b : Bool) :
    SameButTuning { s with i2cOpen := b } { t with i2cOpen := b } := by
  unfold SameButTuning at *
  rw [h]

end Frames

section Operations

variable {O : Transport} {r : Run} {cs : List WriteCommand}

theorem Faithful.writeEach_comes (hO : Faithful O) (h : batchRuns r.state.i2cOpen cs = true) :
    (directWriteEach O cs r).Yields fun _ r1 => Comes r r.state (batchCount r.state.cfg cs) r1 := by
  obtain ⟨r1, hr1⟩ := hO.writeEach_ok h
  exact ⟨(), r1, hr1, (writeEach_frame cs r).of_ok hr1, (writeEach_asks cs r).of_ok hr1⟩

theorem Faithful.claim_comes (hO : Faithful O) (r : Run) :
    (directClaim O r).Yields fun _ r1 => Comes r { r.state with claimed := true } 1 r1 := by
  obtain ⟨x, hx⟩ := hO.answers_ok r.answers.length (.claim 0)
  exact ⟨_, _, directClaim_ok ⟨hx, trivial⟩, rfl, List.length_append ..⟩

theorem Faithful.release_comes (hO : Faithful O) (r : Run) :
    (directRelease O r).Yields fun _ r1 => Comes r { r.state with claimed := false } 1 r1 := by
  obtain ⟨x, hx⟩ := hO.answers_ok r.answers.length (.release 0)
  exact ⟨_, _, directRelease_ok ⟨hx, trivial⟩, rfl, List.length_append ..⟩

/-- The two answers of a demodulator write and its poll (R67). -/
theorem Faithful.gives_demodWrite (hO : Faithful O) (r : Run) (p a : Int) (d : List Byte) :
    ∃ x y, Gives O r (demodWritePrims p a d) [.ok x, .ok [y]] := by
  obtain ⟨x, hx⟩ := hO.answers_ok r.answers.length _
  obtain ⟨y, hy⟩ := hO.answers_byte (r.asked _ (.ok x)).answers.length _ _
  exact ⟨x, y, hx, hy, trivial⟩

theorem Faithful.openI2C_comes (hO : Faithful O) (r : Run) :
    (directOpenI2C O r).Yields fun _ r1 => Comes r { r.state with i2cOpen := true } 2 r1 := by
  obtain ⟨x, y, hgives⟩ := hO.gives_demodWrite r 1 1 [0x18]
  exact ⟨_, _, directOpenI2C_ok hgives, rfl, List.length_append ..⟩

theorem Faithful.closeI2C_comes (hO : Faithful O) (r : Run) :
    (directCloseI2C O r).Yields fun _ r1 => Comes r { r.state with i2cOpen := false } 2 r1 := by
  obtain ⟨x, y, hgives⟩ := hO.gives_demodWrite r 1 1 [0x10]
  exact ⟨_, _, directCloseI2C_ok hgives, rfl, List.length_append ..⟩

end Operations

/-! ### Commands on the tuner -/

section TunerCommands

variable {α : Type} {O : Transport} {c : Config} {x : Rat} {k : Nat} {r : Run} {s : State} {want : Session}

/-- In the session it requires, a command goes on past its check (R112). -/
theorem directSession_eq (h : r.state.session = want) (y : Result α) : directSession want r y = y := if_pos h

/-- A gain setting is its list of masked writes (R117). -/
theorem Faithful.setGainInner_wrote (hO : Faithful O) (hc : Admissible c) (hr : At c x k r) (g : Option Rat) :
    (directSetGainInner O g r).Yields fun _ r1 => ∃ n, Wrote r (gainSettingWrites c g) n r1 := by
  cases g with
  | none => exact (hO.setAutoGain_wrote hc hr).mono fun _ _ h => ⟨_, h⟩
  | some q => exact (hO.setManualGain_wrote hc hr q).mono fun _ _ h => ⟨_, h⟩

/-- The repeater open at the start of a command, the tuner can be reached (R69). -/
theorem Comes.at_opened {r1 : Run} (h : Comes (Run.start s) { s with i2cOpen := true } 2 r1) (ht : s.tunerPresent = true)
    (hfilled : ShadowReady s) : At s.cfg (crystal s) 2 r1 := by
  have hframe := h.frame
  refine ⟨?_, ?_, ⟨⟨?_, ?_⟩, fun i => ?_⟩, h.asks⟩
  · rw [hframe]
  · rw [hframe]; rfl
  · rw [hframe]; exact ht
  · rw [hframe]
  · rw [hframe]; exact hfilled i

/-- Masked writes between the opening of the repeater and its closing (R116, R125). -/
theorem Wrote.closed {r1 r2 r3 : Run} {ws : List MaskedWrite} {n : Nat} (h : Wrote r1 ws n r2)
    (hopen : SameButTrace { s with i2cOpen := true } r1.state)
    (hclose : SameButTrace { r2.state with i2cOpen := false } r3.state) :
    SameButShadow { s with i2cOpen := false } r3.state ∧ r3.state.shadow = maskCells s.shadow ws := by
  have hwrites := (hopen.shadow.trans h.sameButShadow).setI2C false
  refine ⟨hwrites.trans hclose.shadow, ?_⟩
  rw [hclose, ← show r1.state.shadow = s.shadow by rw [hopen]]
  exact h.shadow

end TunerCommands

/-- Settles O36: the three batches, each from the state the one before it leaves. -/
theorem setSampleRateCompletes : Obligations.SetSampleRateCompletes := by
  intro O s rate ⟨hs, hsession⟩ hO hrate hratio hruns1 hruns2 hruns3
  have hrun : (directSetSampleRate O rate (Run.start s)).Yields fun v r =>
      v = achievedRate (sampleRatio rate) ∧ SameButTrace s r.state := by
    rw [directSetSampleRate, directSession_eq hsession, if_neg (not_le.2 hrate), if_neg hratio]
    refine yields_andThen (hO.writeEach_comes hruns1) fun _ r1 h1 => ?_
    have hsame1 : SameButTrace s r1.state := h1.frame
    refine yields_andThen (hO.writeEach_comes (by rw [hsame1]; exact hruns2)) fun _ r2 h2 => ?_
    have hsame2 := hsame1.trans h2.frame
    refine yields_andThen (hO.writeEach_comes (by rw [hsame2]; exact hruns3)) fun _ r3 h3 => ?_
    exact yields_ok ⟨rfl, hsame2.trans h3.frame⟩
  exact succeeds_of_yields Value.rat hs hrun fun v r ⟨hv, h⟩ => ⟨by rw [hv, achievedRate_eq], h⟩

/-- Settles O37: the repeater opens, the tuner is retuned from primitive 2 on, and the repeater closes. -/
theorem setCenterFrequencyCompletes : Obligations.SetCenterFrequencyCompletes := by
  intro O s f ⟨hs, hsession⟩ ht hfilled hO hpos hmax hn a
  have hrange : ¬ (f + IF_FREQ ≤ 0 ∨ VCO_MIN < f + IF_FREQ) := by unfold IF_FREQ VCO_MIN; omega
  have hrun : (directSetCenterFrequency O f (Run.start s)).Yields fun v r =>
      v = pllResult (f + 3570000) (crystal s) - 3570000 ∧ SameButTuning { s with i2cOpen := false } r.state ∧
        r.state.shadow = maskCells s.shadow a.writes ∧ r.state.hasLock = a.locked ∧
        r.state.pllState = if a.locked then .locked else .unlocked := by
    rw [directSetCenterFrequency, directSession_eq hsession, if_neg hrange]
    refine yields_andThen (hO.openI2C_comes _) fun _ r1 h1 => ?_
    have hr1 := h1.at_opened ht hfilled
    refine yields_andThen (hO.setFrequency_tuned hs.admissible hr1 ((tunable_iff _).2 ⟨hpos, hmax⟩) hn) ?_
    rintro v r2 ⟨rfl, h2⟩
    refine yields_andThen (hO.closeI2C_comes r2) fun _ r3 h3 => ?_
    have htuned := ((h1.frame.shadow.tuning.trans h2.frame).setI2C false).trans h3.frame.shadow.tuning
    refine yields_ok ⟨by norm_num [IF_FREQ], htuned, ?_, ?_, ?_⟩
    · rw [h3.frame, ← show r1.state.shadow = s.shadow by rw [h1.frame]; rfl]
      exact h2.shadow
    · rw [h3.frame]
      exact h2.hasLock
    · rw [h3.frame]
      exact h2.pllState
  exact succeeds_of_yields Value.rat hs hrun fun v r ⟨hv, htuned, hshadow, hlock, hstate⟩ =>
    ⟨htuned, congrArg Value.rat hv, hshadow, hlock, hstate⟩

/-- Settles O38: the masked writes of the setting, between the two repeater operations. -/
theorem setGainCompletes : Obligations.SetGainCompletes := by
  intro O s g ⟨hs, hsession⟩ ht hfilled hO
  have hrun : (directSetGain O g (Run.start s)).Yields fun _ r =>
      SameButShadow { s with i2cOpen := false } r.state ∧
        r.state.shadow = maskCells s.shadow (gainSettingWrites s.cfg g) := by
    rw [directSetGain, directSession_eq hsession]
    refine yields_andThen (hO.openI2C_comes _) fun _ r1 h1 => ?_
    refine yields_andThen (hO.setGainInner_wrote hs.admissible (h1.at_opened ht hfilled) g) fun _ r2 ⟨n, h2⟩ => ?_
    exact (hO.closeI2C_comes r2).mono fun _ r3 h3 => h2.closed h1.frame h3.frame
  exact succeeds_of_yields unitValue hs hrun fun _ r h => ⟨rfl, h⟩

/-- Settles O41: the standby writes between the two repeater operations, and then the release. -/
theorem closeCompletes : Obligations.CloseCompletes := by
  intro O s ⟨hs, hsession⟩ ht hfilled hO
  have hrun : (directClose O (Run.start s)).Yields fun _ r => ∃ t : State,
      SameButShadow { s with i2cOpen := false } t ∧
      t.shadow = maskCells s.shadow (s.cfg.standbyTable.map fun p => ⟨p.reg, p.value, 0xFF⟩) ∧
      SameButTrace { t with claimed := false, streamReady := false, session := .closed } r.state := by
    rw [directClose, directSession_eq hsession]
    refine yields_andThen (hO.openI2C_comes _) fun _ r1 h1 => ?_
    refine yields_andThen (hO.tunerClose_wrote hs.admissible (h1.at_opened ht hfilled)) fun _ r2 h2 => ?_
    refine yields_andThen (hO.closeI2C_comes r2) fun _ r3 h3 => ?_
    obtain ⟨hsame, hshadow⟩ := h2.closed h1.frame h3.frame
    refine yields_andThen (hO.release_comes r3) fun _ r4 h4 => yields_ok ⟨r3.state, hsame, hshadow, ?_⟩
    exact h4.frame.write fun u => { u with streamReady := false, session := .closed }
  refine succeeds_of_yields unitValue hs hrun fun _ r ⟨t, hsame, hshadow, h⟩ => ⟨rfl, ?_⟩
  rw [h, ← hshadow, hsame]

/-- Settles O39: `resetBuffer` by its batch, and `readSamples` by its one bulk read. -/
theorem streamCommandsComplete : Obligations.StreamCommandsComplete := by
  intro s ⟨hs, hsession⟩
  refine ⟨fun O hO hruns => ?reset, fun count d hstream hclaimed hcount hlen => ?read⟩
  case reset =>
    have hrun : (directResetBuffer O (Run.start s)).Yields fun _ r =>
        SameButTrace { s with streamReady := true } r.state := by
      rw [directResetBuffer, directSession_eq hsession]
      refine yields_andThen (hO.writeEach_comes hruns) fun _ r1 h1 => yields_ok ?_
      exact h1.frame.write fun u => { u with streamReady := true }
    exact succeeds_of_yields unitValue hs hrun fun _ r h => ⟨rfl, h⟩
  case read =>
    have hbulk := directReadBulk_ok (r := Run.start s) hclaimed (by omega) hlen (gives_scripted (as := [.ok d]) rfl)
    have hrun : directReadSamples (scripted [.ok d]) count (Run.start s) =
        .ok d ((Run.start s).sent [.bulkIn 1 (2 * count).toNat] [.ok d]) := by
      rw [directReadSamples, directSession_eq hsession, if_neg (not_lt.2 hcount),
        if_pos (show (Run.start s).state.streamReady = true from hstream), hbulk]
    exact completes_of_scripted Value.bytes hs hrun

end Sys2Proof.Machine
end

section
/-! SUPPORT. Bring-up in direct style (R86, R113): the run up to the electronics of the tuner, and the errors that end it
there (R103, R136); and the proofs that `open` completes, or ends in the error of its probe or of its calibration. -/

namespace Sys2Proof.Machine

/-! ### Ending in an error -/

/-- An operation ends in the error `e`, in a position that satisfies `P`. -/
def Result.Raises {α : Type} (x : Result α) (e : Error) (P : Run → Prop) : Prop := ∃ r, x = .error e r ∧ P r

section Errors

variable {α β : Type} {O : Transport} {i : Instr} {s : State} {e : Error} {y : Result α} {Q : Run → Prop}

/-- An error ends every operation above it (R15). -/
theorem Result.Raises.andThen (h : y.Raises e Q) (g : α → Run → Result β) : (y.andThen g).Raises e Q := by
  obtain ⟨r, rfl, hQ⟩ := h
  exact ⟨r, rfl, hQ⟩

theorem raises_andThen {g : α → Run → Result β} {P : α → Run → Prop} (hy : y.Yields P)
    (hg : ∀ v r, P v r → (g v r).Raises e Q) : (y.andThen g).Raises e Q := by
  obtain ⟨v, r, rfl, hP⟩ := hy
  exact hg v r hP

theorem Result.Raises.mono {Q' : Run → Prop} (h : y.Raises e Q) (hQ : ∀ r, Q r → Q' r) : y.Raises e Q' := by
  obtain ⟨r, he, hr⟩ := h
  exact ⟨r, he, hQ r hr⟩

/-- A command ends in the error of its operation. -/
theorem endsInError_of_raises {P : State → Prop} (w : α → Value) (ha : Accepts i s) (hy : y.Raises e Q)
    (hP : ∀ r, Q r → P (r.failed i e [])) (hd : direct O i (Run.start s) = y.map w := by rfl) :
    EndsInError O i s e P := by
  obtain ⟨r, rfl, hQ⟩ := hy
  exact endsInError_of_direct ha hd (hP r hQ)

end Errors

/-! ### A synthesis that does not lock -/

/-- From `r` to `r1` tuning operations have run, the last of them without a lock (R102, R103). -/
structure Unlocked (r r1 : Run) : Prop where
  frame : SameButTuning r.state r1.state
  hasLock : r1.state.hasLock = false
  pllState : r1.state.pllState = .unlocked

section Unlocks

variable {O : Transport} {c : Config} {x : Rat} {k n : Nat} {r r1 r2 : Run} {ws : List MaskedWrite} {first : Bool}

theorem Made.unlocked (h : Made r ws n r1) (h' : Unlocked r1 r2) : Unlocked r r2 :=
  ⟨h.frame.trans h'.frame, h'.hasLock, h'.pllState⟩

/-- A pass whose synthesis does not lock ends there (R103). -/
theorem Faithful.calibrationPass_raises (hO : Faithful O) (hc : Admissible c) (hr : At c x k r)
    (hn : NINT_BASE ≤ nintOf CAL_FREQ x) (hlock : (calibrationPass O c x k).locked = false) :
    (directCalibrationPass O r).Raises .pllNotLocked (Unlocked r) := by
  rw [directCalibrationPass, hr.cfg]
  refine raises_andThen (hO.maskedAll_wrote hr hc.calPre) fun _ r1 h1 => ?_
  refine raises_andThen (hO.setPll_tuned hc (h1.after hr) (by decide) hn) fun _ r2 ⟨_, h2⟩ => ?_
  have hlost : r2.state.hasLock = false := h2.hasLock.trans hlock
  have hstate : r2.state.pllState = .unlocked := by
    rw [h2.pllState, if_neg]
    exact Bool.eq_false_iff.1 hlock
  rw [if_neg (Bool.eq_false_iff.1 hlost)]
  exact ⟨r2, rfl, h1.toMade.unlocked ⟨h2.frame, hlost, hstate⟩⟩

/-- The pass that does not lock is the first one, or the second after a first one that locks (R103). -/
theorem calibration_unlocked_cases (h : (calibration O c x first k).locked = false) :
    (calibrationPass O c x k).locked = false ∨
      (calibrationPass O c x k).locked = true ∧ (calibrationPass O c x k).code ≠ 0 ∧ first = true ∧
        (calibrationPass O c x (k + (calibrationPass O c x k).count)).locked = false := by
  unfold calibration at h
  simp only at h
  split at h
  · rename_i hagain
    obtain ⟨hone, hcode, hfirst⟩ := hagain
    exact .inr ⟨hone, hcode, hfirst, h⟩
  · exact .inl h

theorem Faithful.calibrateFilter_raises (hO : Faithful O) (hc : Admissible c) (hr : At c x k r)
    (hn : NINT_BASE ≤ nintOf CAL_FREQ x) (hlock : (calibration O c x first k).locked = false) :
    (directCalibrateFilter O first r).Raises .pllNotLocked (Unlocked r) := by
  rw [directCalibrateFilter, hr.directTuner_eq]
  rcases calibration_unlocked_cases hlock with hone | ⟨hone, hcode, hfirst, htwo⟩
  · exact (hO.calibrationPass_raises hc hr hn hone).andThen _
  · refine raises_andThen (hO.calibrationPass_tuned hc hr hn hone) ?_
    rintro v r1 ⟨rfl, h1⟩
    rw [if_pos ⟨hcode, hfirst⟩]
    exact (hO.calibrationPass_raises hc (h1.after hr) hn htwo).mono fun _ h2 => h1.toMade.unlocked h2

theorem Faithful.initElectronics_raises (hO : Faithful O) (hc : Admissible c) (hr : At c x k r)
    (hn : NINT_BASE ≤ nintOf CAL_FREQ x) (hlock : (electronics O c x k).locked = false) :
    (directInitElectronics O r).Raises .pllNotLocked (Unlocked r) := by
  rw [directInitElectronics, hr.directTuner_eq, hr.cfg]
  refine raises_andThen (hO.maskedAll_wrote hr hc.initElecPre) fun _ r1 h1 => ?_
  exact ((hO.calibrateFilter_raises hc (h1.after hr) hn hlock).andThen _).mono fun _ h2 => h1.toMade.unlocked h2

end Unlocks

/-! ### Up to the electronics -/

section Electronics

variable {O : Transport} {c : Config} {x : Rat} {k : Nat} {r r1 : Run} {s : State}

/-- The image has been written to the whole bank, and else the block is as in `s` (R86): the electronics come next. -/
structure Filled (s : State) (r1 : Run) : Prop where
  frame : SameButShadow s r1.state
  shadow : r1.state.shadow = imageCells s.cfg

/-- `init` goes on from its image, which fills the bank in 27 register writes, to the electronics (R86). -/
theorem Faithful.tunerInit_electronics (hO : Faithful O) (hc : Admissible r.state.cfg) (hs : TunerReachable r.state) :
    ∃ r1, directTunerInit O r = directInitElectronics O r1 ∧ Filled r.state r1 ∧
      At r.state.cfg (crystal r.state) (r.answers.length + 27 * writeCount r.state.cfg) r1 := by
  obtain ⟨htuner, hopen⟩ := hs
  obtain ⟨_, r1, himage, h1⟩ := hO.image_imaged (is := List.finRange 27) hc rfl hopen
  have hframe := h1.frame
  refine ⟨r1, ?_, ⟨hframe, h1.shadow⟩, hframe.tuning.cfg, hframe.tuning.crystal, ⟨⟨?_, ?_⟩, fun i => ?_⟩, ?_⟩
  · rw [directTunerInit, TunerReachable.directTuner_eq ⟨htuner, hopen⟩, if_pos hopen, himage]
    rfl
  · rw [hframe]; exact htuner
  · rw [hframe]; exact hopen
  · rw [h1.cells, if_pos (List.mem_finRange i)]; rfl
  · rw [h1.count, List.length_finRange]

/-- The block when `open` has its probe's answer: the interface is claimed, the repeater is open and the crystal frequency
is set (R113). -/
def State.probed (s : State) : State :=
  { s with claimed := true, i2cOpen := true, xtalFreq := some (correctedCrystal s.ppm) }

/-- The same after a probe that has found the tuner (R113). -/
def State.found (s : State) : State := { s.probed with tunerPresent := true }

/-- The probe reads the chip id with its second primitive (R80). -/
theorem Faithful.check_comes (hO : Faithful O) (ho : r.state.i2cOpen = true) {b : Byte}
    (hchip : ChipReads O r.state.cfg (r.answers.length + 1) b) :
    (directCheck O r).Yields fun found r1 => found = (b == 0x69) ∧ Comes r r.state 2 r1 := by
  obtain ⟨x, hx⟩ := hO.answers_ok r.answers.length (i2cWrite r.state.cfg 0x34 [byteOf 0])
  have hread : O (r.asked (i2cWrite r.state.cfg 0x34 [byteOf 0]) (.ok x)).answers.length (i2cRead r.state.cfg 0x34 1) =
      .ok [b] := by
    rw [Run.asked, List.length_append]
    exact hchip
  exact ⟨_, _, directCheck_ok ho ⟨hx, hread, trivial⟩, rfl, rfl, List.length_append ..⟩

/-- `open` up to its probe: the two batches, the claim, the repeater and the chip id (R113). -/
def directProbe (O : Transport) (r : Run) : Result Bool :=
  (directWriteEach O r.state.cfg.usbConfigBatch r).andThen fun _ r =>
  (directClaim O r).andThen fun _ r =>
  (directWriteEach O r.state.cfg.demodInitBatch r).andThen fun _ r =>
  (directOpenI2C O (r.write { r.state with xtalFreq := some (correctedCrystal r.state.ppm) })).andThen fun _ r =>
  directCheck O r

/-- `open` is its probe, and then the bring-up of the tuner it has found or the error (R113). -/
theorem directOpen_eq (O : Transport) (h : r.state.session = .idle) :
    directOpen O r = (directProbe O r).andThen fun found r =>
      if found then directBringUp O r else .error .unsupportedTunerChip r := by
  rw [directOpen, directSession_eq h]
  simp only [directProbe, andThen_assoc]

theorem Faithful.probe_comes (hO : Faithful O) (husb : batchRuns s.i2cOpen s.cfg.usbConfigBatch = true)
    (hdemod : batchRuns s.i2cOpen s.cfg.demodInitBatch = true) {b : Byte}
    (hchip : ChipReads O s.cfg (chipIndex s.cfg) b) :
    (directProbe O (Run.start s)).Yields fun found r1 =>
      found = (b == 0x69) ∧ Comes (Run.start s) s.probed (chipIndex s.cfg + 1) r1 := by
  refine yields_andThen (hO.writeEach_comes husb) fun _ r1 h1 => ?_
  have hsame1 : SameButTrace s r1.state := h1.frame
  refine yields_andThen (hO.claim_comes r1) fun _ r2 h2 => ?_
  have hsame2 := (hsame1.write fun u => { u with claimed := true }).trans h2.frame
  have hcfg2 : r2.state.cfg = s.cfg := by rw [hsame2]
  rw [hcfg2]
  refine yields_andThen (hO.writeEach_comes (by rw [hsame2]; exact hdemod)) fun _ r3 h3 => ?_
  have hsame3 := hsame2.trans h3.frame
  refine yields_andThen (hO.openI2C_comes _) fun _ r4 h4 => ?_
  have hsame4 : SameButTrace s.probed r4.state := (hsame3.write fun u =>
    { u with i2cOpen := true, xtalFreq := some (correctedCrystal u.ppm) }).trans h4.frame
  have hasks4 : Asks (batchCount s.cfg s.cfg.usbConfigBatch + 1 + batchCount s.cfg s.cfg.demodInitBatch + 2)
      (Run.start s) r4 := by
    have hasks3 := h3.asks
    rw [hcfg2] at hasks3
    exact ((h1.asks.trans h2.asks).trans hasks3).trans h4.asks
  have hindex : r4.answers.length + 1 = chipIndex s.cfg := congrArg (· + 1) (Eq.trans hasks4 (Nat.zero_add _))
  have hcfg4 : r4.state.cfg = s.cfg := by rw [hsame4]; rfl
  have hcheck := hO.check_comes (r := r4) (b := b) (by rw [hsame4]; rfl) (by rw [hcfg4, hindex]; exact hchip)
  exact hcheck.mono fun _ r5 ⟨hfound, h5⟩ => ⟨hfound, hsame4.trans h5.frame, hasks4.trans h5.asks⟩

/-- `open` goes on as its probe says (R113). -/
theorem Faithful.open_probed (hO : Faithful O) (hs : s.session = .idle)
    (husb : batchRuns s.i2cOpen s.cfg.usbConfigBatch = true) (hdemod : batchRuns s.i2cOpen s.cfg.demodInitBatch = true)
    {b : Byte} (hchip : ChipReads O s.cfg (chipIndex s.cfg) b) :
    ∃ r1, directOpen O (Run.start s) = (if b == 0x69 then directBringUp O r1 else .error .unsupportedTunerChip r1) ∧
      Comes (Run.start s) s.probed (chipIndex s.cfg + 1) r1 := by
  obtain ⟨_, r1, hprobe, rfl, h1⟩ := hO.probe_comes husb hdemod hchip
  exact ⟨r1, by rw [directOpen_eq O hs, hprobe]; rfl, h1⟩

/-- What `open` does after `tuner.init` (R113). -/
def directFinish (O : Transport) (r : Run) : Result Unit :=
  (directSetGainInner O r.state.gainCfg r).andThen fun _ r =>
  (directCloseI2C O r).andThen fun _ r => .ok () (r.write { r.state with streamReady := false, session := .opened })

/-- After a probe that has found the tuner, `open` goes on to the electronics (R113). -/
theorem Faithful.bringUp_electronics (hO : Faithful O) (hc : Admissible s.cfg) (h : SameButTrace s.probed r.state)
    (hruns : batchRuns true (evalBatch s.cfg.ifWrites (ifMultiplier (correctedCrystal s.ppm))) = true) :
    ∃ r1, directBringUp O r = (directInitElectronics O r1).andThen (fun _ r => directFinish O r) ∧ Filled s.found r1 ∧
      At s.cfg (correctedCrystal s.ppm) (r.answers.length +
        batchCount s.cfg (evalBatch s.cfg.ifWrites (ifMultiplier (correctedCrystal s.ppm))) + 27 * writeCount s.cfg) r1 := by
  have hcfg : r.state.cfg = s.cfg := by rw [h]; rfl
  have hcrystal : crystal r.state = correctedCrystal s.ppm := by rw [h]; rfl
  have hfound : SameButTrace s.found { r.state with tunerPresent := true } := h.write fun u => { u with tunerPresent := true }
  obtain ⟨_, r1, hrun1, h1⟩ := hO.writeEach_comes (r := r.write { r.state with tunerPresent := true })
    (cs := evalBatch s.cfg.ifWrites (ifMultiplier (correctedCrystal s.ppm)))
    (by rw [show (r.write { r.state with tunerPresent := true }).state.i2cOpen = true by rw [Run.write, hfound]; rfl]
        exact hruns)
  have hsame1 : SameButTrace s.found r1.state := hfound.trans h1.frame
  have hcfg1 : r1.state.cfg = s.cfg := by rw [hsame1]; rfl
  have hasks := h1.asks
  rw [show (r.write { r.state with tunerPresent := true }).state.cfg = s.cfg from hcfg] at hasks
  obtain ⟨r2, hrun2, hfilled, hr2⟩ := hO.tunerInit_electronics (r := r1) (by rw [hcfg1]; exact hc)
    ⟨by rw [hsame1]; rfl, by rw [hsame1]; rfl⟩
  refine ⟨r2, ?_, ⟨hsame1.shadow.trans hfilled.frame, ?_⟩, ?_⟩
  · rw [directBringUp, hcfg, hcrystal, hrun1]
    simp only [Result.andThen, hrun2]
    rfl
  · rw [hfilled.shadow, hcfg1]
    rfl
  · rwa [hcfg1, show r1.answers.length = _ from hasks,
      show crystal r1.state = correctedCrystal s.ppm by rw [hsame1]; rfl] at hr2

/-- Where the probe finds the tuner, `open` comes to the electronics with the bank filled (R86, R113). -/
theorem Faithful.open_electronics (hO : Faithful O) (hs : ReadyExternal .idle s)
    (husb : batchRuns s.i2cOpen s.cfg.usbConfigBatch = true) (hdemod : batchRuns s.i2cOpen s.cfg.demodInitBatch = true)
    (hchip : ChipReads O s.cfg (chipIndex s.cfg) 0x69)
    (hruns : batchRuns true (evalBatch s.cfg.ifWrites (ifMultiplier (correctedCrystal s.ppm))) = true) :
    ∃ r1, directOpen O (Run.start s) = (directInitElectronics O r1).andThen (fun _ r => directFinish O r) ∧
      Filled s.found r1 ∧ At s.cfg (correctedCrystal s.ppm) (electronicsIndex s.cfg s.ppm) r1 := by
  obtain ⟨hready, hsession⟩ := hs
  obtain ⟨r1, hopen, h1⟩ := hO.open_probed hsession husb hdemod hchip
  obtain ⟨r2, hup, hfilled, hr2⟩ := hO.bringUp_electronics hready.admissible h1.frame hruns
  rw [show r1.answers.length = 0 + (chipIndex s.cfg + 1) from h1.asks, Nat.zero_add] at hr2
  exact ⟨r2, hopen.trans hup, hfilled, hr2⟩

/-- For ppm above -513889 a calibration is in range (R103 c). -/
theorem nintOf_calibration_ge {ppm : Int} (h : okPpm ppm = true) (hppm : -513889 < ppm) :
    NINT_BASE ≤ nintOf CAL_FREQ (correctedCrystal ppm) := by
  obtain ⟨-, -, hreach⟩ := synthesisReach
  exact ((synthesizable_iff ..).1 ((hreach ppm h).2 hppm)).1

theorem Ready.okPpm (h : Ready s) : okPpm s.ppm = true := by
  obtain ⟨hconf, -, -⟩ := h
  rw [configured, Bool.and_eq_true] at hconf
  exact hconf.2

/-- After the electronics the gain is set, the repeater closes and the session opens (R113). -/
theorem Faithful.finish_yields (hO : Faithful O) (hc : Admissible c) (hr : At c x k r) :
    (directFinish O r).Yields fun _ r2 => ∃ n r1, Wrote r (gainSettingWrites c r.state.gainCfg) n r1 ∧
      SameButTrace { r1.state with i2cOpen := false, streamReady := false, session := .opened } r2.state := by
  refine yields_andThen (hO.setGainInner_wrote hc hr _) fun _ r1 ⟨n, h1⟩ => ?_
  refine yields_andThen (hO.closeI2C_comes r1) fun _ r2 h2 => yields_ok ⟨n, r1, h1, ?_⟩
  exact h2.frame.write fun u => { u with streamReady := false, session := .opened }

end Electronics

/-- Settles O34: the run up to the electronics, the electronics by their closed form, and the gain. -/
theorem openCompletes : Obligations.OpenCompletes := by
  intro O s hs hO hchip hppm husb hdemod hruns a hlock
  have ⟨hready, _⟩ := hs
  have hc := hready.admissible
  have hn := nintOf_calibration_ge hready.okPpm hppm
  obtain ⟨r1, hopen, hfilled, hr1⟩ := hO.open_electronics hs husb hdemod hchip hruns
  have hrun : (directOpen O (Run.start s)).Yields fun _ r => ∃ t : State, SameButTuning s.found t ∧ ShadowReady t ∧
      t.shadow = maskCells (imageCells s.cfg) (a.writes ++ gainSettingWrites s.cfg s.gainCfg) ∧ t.hasLock = true ∧
      t.pllState = .locked ∧
      SameButTrace { t with i2cOpen := false, streamReady := false, session := .opened } r.state := by
    rw [hopen]
    refine yields_andThen (hO.initElectronics_tuned hc hr1 hn hlock) fun _ r2 h2 => ?_
    have hsame2 := hfilled.frame.tuning.trans h2.frame
    have hr2 := h2.after hr1
    have hgain : r2.state.gainCfg = s.gainCfg := by rw [hsame2]; rfl
    refine (hO.finish_yields hc hr2).mono fun _ r4 ⟨n, r3, h3, h4⟩ => ?_
    have ⟨_, hdefined⟩ := (h3.after hr2).ready
    refine ⟨r3.state, hsame2.trans h3.frame, hdefined, ?_, h3.hasLock.trans (h2.hasLock.trans hlock), ?_, h4⟩
    · rw [h3.shadow, h2.shadow, hfilled.shadow, hgain, maskCells_append]
      rfl
    · rw [h3.pllState, h2.pllState]
      exact if_pos hlock
  refine succeeds_of_yields unitValue hready hrun fun _ r ⟨t, hsame, hdefined, hshadow, hhas, hstate, h⟩ => ?_
  have hbank : r.state.shadow = t.shadow := by rw [h]
  refine ⟨rfl, fun i => by rw [hbank]; exact hdefined i, hbank.trans hshadow, ?_⟩
  rw [hbank, h, hsame, hhas, hstate]
  rfl

/-- Settles O35: the error of the probe, and that of a calibration pass wherever it runs. -/
theorem bringUpErrors : Obligations.BringUpErrors := by
  refine ⟨fun O s hs hO husb hdemod => ⟨fun b hchip hb => ?probe, fun hchip hppm hruns hlock => ?openUnlocked⟩,
    fun O s hs hreach hO hn => ?commands⟩
  case probe =>
    have ⟨hready, hsession⟩ := hs
    obtain ⟨r1, hopen, h1⟩ := hO.open_probed hsession husb hdemod hchip
    rw [if_neg (by simpa using hb)] at hopen
    refine endsInError_of_raises unitValue hready ⟨r1, hopen, rfl⟩ fun r h => ?_
    have hsame : SameButTrace s.probed r.state := h ▸ h1.frame
    rw [Run.failed, hsame]
    exact ⟨rfl, rfl, rfl, rfl, rfl, rfl⟩
  case openUnlocked =>
    have ⟨hready, _⟩ := hs
    have hn := nintOf_calibration_ge hready.okPpm hppm
    obtain ⟨r1, hopen, hfilled, hr1⟩ := hO.open_electronics hs husb hdemod hchip hruns
    have hrun : (directOpen O (Run.start s)).Raises .pllNotLocked (Unlocked r1) := by
      rw [hopen]
      exact (hO.initElectronics_raises hready.admissible hr1 hn hlock).andThen _
    refine endsInError_of_raises unitValue hready hrun fun r h => ?_
    have hsame : SameButTuning s.found r.state := hfilled.frame.tuning.trans h.frame
    rw [Run.failed, hsame, h.hasLock, h.pllState]
    exact ⟨rfl, rfl, rfl, rfl, rfl, rfl, rfl⟩
  case commands =>
    intro final
    have hc := hs.admissible
    have hfinal {r1 r : Run} (i : Instr) (hsame : SameButTuning s r1.state) (h : Unlocked r1 r) :
        final (r.failed i .pllNotLocked []) := by
      refine ⟨rfl, h.hasLock, h.pllState, ?_⟩
      rw [Run.failed, hsame.trans h.frame]
    refine ⟨fun first hfilled hlock => ?_, fun hfilled hlock => ?_, fun hlock => ?_⟩
    · have hstart := at_start ⟨hreach, hfilled⟩
      exact endsInError_of_raises Value.int hs (hO.calibrateFilter_raises hc hstart hn hlock) fun r h =>
        hfinal _ (.refl s) h
    · have hstart := at_start ⟨hreach, hfilled⟩
      exact endsInError_of_raises unitValue hs (hO.initElectronics_raises hc hstart hn hlock) fun r h =>
        hfinal _ (.refl s) h
    · obtain ⟨r1, hinit, hfilled, hr1⟩ := hO.tunerInit_electronics (r := Run.start s) hc hreach
      rw [show (Run.start s).answers.length + 27 * writeCount (Run.start s).state.cfg = 27 * writeCount s.cfg from
        Nat.zero_add _] at hr1
      have hraises := hO.initElectronics_raises hc hr1 hn hlock
      rw [← hinit] at hraises
      exact endsInError_of_raises unitValue hs hraises fun r h => hfinal _ hfilled.frame.tuning h

end Sys2Proof.Machine
end

section
/-! SUPPORT. The permission check of an internal command (R138), and the bulk read of `readSamples` where it fails
(R123, R133); and the proofs that a command the port refuses faults, and that a failed stream read leaves the session
OPEN. -/

namespace Sys2Proof.Machine

/-! ### The permission of an internal command -/

section Permission

variable {s : State} {i : Instr}

/-- Every instruction that is neither a batch record nor external begins its operation through the check of R138. -/
theorem exec_eq_beginInternal (hrecord : i.isBatchRecord = false) (hexternal : isExternal i = false) :
    ∃ op, ∀ u, exec i u = beginInternal op u := by
  cases i
  case wcReg | wcRegMask | wcDemodReg | wcI2CReg => cases hrecord
  case controllerOpen | setSampleRate | setCenterFrequency | setGain | resetBuffer | readSamples | controllerClose =>
    cases hexternal
  all_goals exact ⟨_, fun _ => rfl⟩

/-- The check of R138 comes before the operation, whatever its operands. -/
theorem beginInternal_refused (op : Op) (h : ¬ (s.cfg.testPort = true ∧ sessionLive s.session = true)) :
    beginInternal op s = .fault .notPermitted := if_neg (by rwa [Bool.and_eq_true])

end Permission

/-- Settles O43: each internal command by its permission check. -/
theorem internalNeedsTestPort : Obligations.InternalNeedsTestPort := by
  intro s i hrecord hexternal h
  obtain ⟨op, hop⟩ := exec_eq_beginInternal hrecord hexternal
  rw [hop]
  refine beginInternal_refused op fun ⟨hport, hlive⟩ => ?_
  rcases h with h | h | h
  · simp [h] at hport
  · simp [h, sessionLive] at hlive
  · simp [h, sessionLive] at hlive

/-! ### The bulk read of the stream -/

section Bulk

variable {s t u : State} {n : Int} {op op' : Op} {p : Primitive} {k k' : Frame}

/-- Past its checks `readSamples` calls a bulk read of two bytes a sample (R123). -/
theorem enterReadSamples_call (hsession : s.session = .opened) (hn : 1 ≤ n) (hstream : s.streamReady = true) :
    enterOp (.readSamples n) s = .call (.readBulk (2 * n)) .readSamplesData s :=
  (if_pos hsession).trans ((if_neg (not_lt.2 hn)).trans (if_pos hstream))

/-- Past its checks `readBulk` issues its one primitive (R78). -/
theorem enterReadBulk_prim (hn : 1 ≤ n) (hclaimed : s.claimed = true) :
    enterOp (.readBulk n) s = .prim (.bulkIn 1 n.toNat) .readBulkData s :=
  (if_pos hn).trans (if_pos hclaimed)

/-- A command whose operation calls one that issues a primitive takes the answer in its first step (R6). -/
theorem begin_of_call_prim (hcall : enterOp op { s with latch := .unit } = .call op' k t)
    (hprim : enterOp op' { t with frames := k :: t.frames, latch := .unit } = .prim p k' u) :
    begin op s = .next (transact p { u with frames := k' :: u.frames }) := by
  have hmore : micro (s.entering op) = .more (State.entering { t with frames := k :: t.frames } op') := by
    rw [micro_entering, hcall]
    rfl
  exact (runMoves_of_more hmore).trans (runMoves_of_done (by rw [micro_entering, hprim]; rfl))

/-- The first step of `readSamples` in an OPEN session with the stream ready is its bulk read, above the frame whose
handler takes its error (R123, R133). -/
theorem exec_readSamples (hsession : s.session = .opened) (hn : 1 ≤ n) (hstream : s.streamReady = true)
    (hclaimed : s.claimed = true) :
    exec (.readSamples n) s = .next (transact (.bulkIn 1 (2 * n).toNat)
      { s with frames := .readBulkData :: .readSamplesData :: s.frames, latch := .unit }) :=
  begin_of_call_prim (enterReadSamples_call hsession hn hstream) (enterReadBulk_prim (by omega) hclaimed)

/-- A bulk failure that passes through `readSamples` leaves the session as it is (R133, R134). -/
theorem errorEntry_handled {e : Error} (he : isBulkFailure e = true) (hs : inReadSamples s.frames = true) :
    errorEntry e s = { s with
      streamReady := false, frames := [], inflight := none, latch := .unit, responses := s.responses ++ [.err e] } := by
  simp only [errorEntry, he, hs, Bool.and_self, if_true]

/-- A bulk read of `readSamples` that raises its error ends the command in that step, and the stream with it (R133). -/
theorem exec_readSamples_failed {a : Answer} {rest : List Answer} {c : Cause} (hsession : s.session = .opened)
    (hn : 1 ≤ n) (hstream : s.streamReady = true) (hclaimed : s.claimed = true)
    (ha : primitiveResult (.bulkIn 1 (2 * n).toNat) a = .error (.usbBulkReadFailed (2 * n).toNat c)) :
    exec (.readSamples n) { s with answers := a :: rest } = .next { s with
      streamReady := false
      answers := rest
      frames := []
      latch := .unit
      inflight := none
      trace := s.trace ++ [.bulkIn 1 (2 * n).toNat]
      responses := s.responses ++ [.err (.usbBulkReadFailed (2 * n).toNat c)] } := by
  rw [exec_readSamples (s := { s with answers := a :: rest }) hsession hn hstream hclaimed, transact_error rfl ha,
    errorEntry_handled rfl rfl]

end Bulk

/-- Settles O40: by whether the transport failed or answered with the wrong length. -/
theorem readSamplesFailure : Obligations.ReadSamplesFailure := by
  intro s n a rest ⟨_, hsession⟩ hstream hclaimed hn hlength
  cases a with
  | ok d =>
    exact exec_readSamples_failed hsession hn hstream hclaimed
      (primitiveResult_failed (.inr ⟨d, rfl, rfl, .inr ⟨_, _, rfl, hlength d rfl⟩⟩))
  | fail c => exact exec_readSamples_failed hsession hn hstream hclaimed rfl

end Sys2Proof.Machine
end

section
/-! SUPPORT. The block after construction (R18, R145), and the proofs that it is idle with nothing known or pending and
meets the invariant. -/

namespace Sys2Proof.Machine

/-- Settles O6: the shadow bank has no cell defined, and every other item has its value of R18 as it is constructed. -/
theorem resetState : Obligations.ResetState := by
  intro c ppm g s
  have hshadow : ∀ i : Fin 27, s.shadow[i] = none := fun i => by simp [s, State.construct]
  exact ⟨rfl, rfl, rfl, rfl, rfl, rfl, rfl, hshadow, rfl, rfl, rfl, rfl, rfl⟩

/-- A constructed block has no operation in progress, no lock and no crystal frequency. -/
theorem construct_inv (c : Config) (ppm : Int) (g : Option Rat) : (State.construct c ppm g).inv = true :=
  inv_of_no_frames rfl rfl (.inr rfl) nofun fun _ => rfl

/-- Settles O7: `State.reset` is constructed with the test configuration. -/
theorem resetMeetsInvariant : Obligations.ResetMeetsInvariant :=
  ⟨construct_inv, construct_inv Config.fixture 0 none⟩

end Sys2Proof.Machine
end

section
/-! SUPPORT. What a step does to the configuration and its inputs (R8, R147), and the proof that it leaves them. -/

namespace Sys2Proof.Machine

/-- The configuration, `ppm` and the configured gain are the same in both states (R147). -/
structure SameInputs (s t : State) : Prop where
  cfg : t.cfg = s.cfg
  ppm : t.ppm = s.ppm
  gainCfg : t.gainCfg = s.gainCfg

theorem SameInputs.trans {s t u : State} (h : SameInputs s t) (k : SameInputs t u) : SameInputs s u :=
  ⟨k.cfg.trans h.cfg, k.ppm.trans h.ppm, k.gainCfg.trans h.gainCfg⟩

theorem Fixed.sameInputs {s t : State} (h : Fixed s t) : SameInputs s t := ⟨h.cfg, h.ppm, h.gainCfg⟩

/-- An answer resumes the operation or ends the command in its error, and neither writes the inputs. -/
theorem takeAnswer_sameInputs (p : Primitive) (s : State) : SameInputs s (takeAnswer p s) := by
  unfold takeAnswer settle
  split <;> exact ⟨rfl, rfl, rfl⟩

theorem Starts.sameInputs {s u : State} (h : Starts s u) : SameInputs s u := by
  cases h with
  | resume hf e => rw [e]; exact ⟨rfl, rfl, rfl⟩
  | record op c cs fs ho hf e => rw [e]; exact ⟨rfl, rfl, rfl⟩
  | internal r rest op i hf hc hd hx hl e => rw [e]; exact ⟨rfl, rfl, rfl⟩
  | external r rest op i hf hc hd hi hx hq e => rw [e]; exact ⟨rfl, rfl, rfl⟩

/-- A step takes an answer, waits, or is runs of statements, and none of these writes the inputs. -/
theorem step_sameInputs {s t : State} (h : step s = .next t) : SameInputs s t := by
  cases hp : s.inflight with
  | some p => exact step_of_inflight hp h ▸ takeAnswer_sameInputs p s
  | none =>
    obtain ⟨-, ⟨rfl, -⟩ | ⟨u, hu, hrun⟩⟩ := step_starts hp h
    · exact ⟨rfl, rfl, rfl⟩
    · exact hu.sameInputs.trans (runMoves_ports hrun).2.sameInputs

/-- A block whose configuration is not well-formed runs no statement (R8). -/
theorem step_of_not_wellFormed {s : State} (h : Config.wellFormed s.cfg = false) :
    step s = .fault .invalidConfiguration := by
  simp [step, configured, h]

/-- Settles O11: no part of a step writes the inputs, and R8 is checked before anything is fetched. -/
theorem configurationFixed : Obligations.ConfigurationFixed := by
  refine ⟨fun s t h => ?_, fun s => step_of_not_wellFormed⟩
  obtain ⟨hcfg, hppm, hgain⟩ := step_sameInputs h
  exact ⟨hcfg, hppm, hgain⟩

end Sys2Proof.Machine
end

section
/-! SUPPORT. How many primitives a direct run has issued, operation by operation, wherever it returns (R157); and the
proof of the counts. -/

namespace Sys2Proof.Machine

/-- `r` stands `k` primitives after `s`, on the record and in the answers, with the configuration and the crystal
frequency of `s`. -/
structure Stands (s : State) (k : Nat) (r : Run) : Prop where
  cfg : r.state.cfg = s.cfg
  crystal : crystal r.state = crystal s
  answered : r.answers.length = k
  recorded : r.state.trace.length = s.trace.length + k

/-- An operation, where it returns, leaves the run `k` primitives after `s`. -/
def Result.EndsAt {α : Type} (x : Result α) (s : State) (k : Nat) : Prop := x.When fun _ r => Stands s k r

section Counting

variable {α β : Type} {O : Transport} {s : State} {k m n : Nat} {r : Run}

theorem stands_start (s : State) : Stands s 0 (Run.start s) := ⟨rfl, rfl, rfl, rfl⟩

theorem Result.EndsAt.cast {x : Result α} (h : x.EndsAt s k) (e : k = m) : x.EndsAt s m := e ▸ h

theorem endsAt_map {x : Result α} {w : α → β} (h : x.EndsAt s k) : (x.map w).EndsAt s k :=
  when_andThen h fun _ _ h => when_ok h

/-! ### RegisterBus -/

theorem ask_endsAt (p : Primitive) (h : Stands s k r) : (ask O p r).EndsAt s (k + 1) := by
  refine when_mono (when_and (ask_state p r) (ask_asks p r)) fun _ r1 ⟨hstate, hasks⟩ => ⟨?_, ?_, ?_, ?_⟩
  · rw [hstate]; exact h.cfg
  · rw [hstate]; exact h.crystal
  · rw [hasks, h.answered]
  · rw [hstate, List.length_append, h.recorded]; rfl

/-- The result of a primitive is that of the transport's answer at its index. -/
theorem ask_result (p : Primitive) (h : Stands s k r) :
    (ask O p r).When fun v _ => primitiveResult p (O k p) = .ok v := by
  unfold ask
  rw [h.answered]
  simp only
  split
  · rename_i hv
    exact when_ok hv
  · exact when_error

/-- A read that succeeds returns the bytes of its answer. -/
theorem answer_of_i2cRead {c : Config} {dev : Int} {n : Nat} {a : Answer} {v : Value}
    (h : primitiveResult (i2cRead c dev n) a = .ok v) : a = .ok v.asBytes := by
  cases a with
  | fail c => cases h
  | ok d =>
    simp only [primitiveResult, i2cRead] at h
    split at h
    · cases h; rfl
    · cases h

theorem decode_endsAt {d : Value} (h : Stands s k r) : (directDecode d r).EndsAt s k :=
  when_mono (decode_frame d r) fun _ _ e => e ▸ h

theorem writeReg_endsAt (b a v w : Int) (h : Stands s k r) : (directWriteReg O b a v w r).EndsAt s (k + 1) := by
  unfold directWriteReg
  split
  · exact when_fault
  split
  · split
    · exact when_stop
    · exact when_andThen (ask_endsAt _ h) fun _ _ h1 => when_ok h1
  · exact when_fault

theorem readReg_endsAt (b a w : Int) (h : Stands s k r) : (directReadReg O b a w r).EndsAt s (k + 1) := by
  unfold directReadReg
  split
  · exact when_fault
  split
  · split
    · exact when_andThen (ask_endsAt _ h) fun _ _ h1 => decode_endsAt h1
    · exact when_error
  · exact when_fault

/-- A masked write is one transfer, or a read and a write (R66). -/
theorem writeRegMask_endsAt (b a v m : Int) (h : Stands s k r) :
    (directWriteRegMask O b a v m r).EndsAt s (k + if m = 0xFF then 1 else 2) := by
  unfold directWriteRegMask
  split
  · split
    · exact writeReg_endsAt _ _ _ _ h
    · exact when_andThen (readReg_endsAt _ _ _ h) fun _ _ h1 => writeReg_endsAt _ _ _ _ h1
  · exact when_fault

theorem readDemodReg_endsAt (p a : Int) (h : Stands s k r) : (directReadDemodReg O p a r).EndsAt s (k + 1) := by
  unfold directReadDemodReg
  split
  · split
    · exact when_andThen (ask_endsAt _ h) fun _ _ h1 => decode_endsAt h1
    · exact when_fault
  · exact when_fault

/-- A demodulator write is followed by its poll (R67). -/
theorem writeDemodReg_endsAt (p a v w : Int) (h : Stands s k r) :
    (directWriteDemodReg O p a v w r).EndsAt s (k + 2) := by
  unfold directWriteDemodReg
  split
  · split
    · split
      · exact when_stop
      · exact when_andThen (ask_endsAt _ h) fun _ _ h1 =>
          when_andThen (readDemodReg_endsAt _ _ h1) fun _ _ h2 => when_ok h2
    · exact when_fault
  · exact when_fault

theorem openI2C_endsAt (h : Stands s k r) : (directOpenI2C O r).EndsAt s (k + 2) :=
  when_andThen (writeDemodReg_endsAt _ _ _ _ h) fun _ _ ⟨hc, hx, ha, ht⟩ => when_ok ⟨hc, hx, ha, ht⟩

theorem closeI2C_endsAt (h : Stands s k r) : (directCloseI2C O r).EndsAt s (k + 2) :=
  when_andThen (writeDemodReg_endsAt _ _ _ _ h) fun _ _ ⟨hc, hx, ha, ht⟩ => when_ok ⟨hc, hx, ha, ht⟩

/-- A write through the I2C proxy has two transfers, or one, as the write form says (R32). -/
theorem i2cWrite_endsAt (d a : Int) (bs : List Byte) (h : Stands s k r) :
    (directI2CWrite O d a bs r).EndsAt s (k + writeCount s.cfg) := by
  unfold directI2CWrite writeCount
  rw [h.cfg]
  cases s.cfg.i2cWriteForm with
  | twoPhase =>
    exact when_andThen (ask_endsAt _ h) fun _ _ h1 => when_andThen (ask_endsAt _ h1) fun _ _ h2 => when_ok h2
  | combined => exact when_andThen (ask_endsAt _ h) fun _ _ h1 => when_ok h1

theorem writeI2CReg_endsAt (d a v : Int) (h : Stands s k r) :
    (directWriteI2CReg O d a v r).EndsAt s (k + writeCount s.cfg) := by
  unfold directWriteI2CReg
  split
  · split
    · exact i2cWrite_endsAt _ _ _ h
    · exact when_fault
  · exact when_fault

theorem writeI2CRegBuffer_endsAt (d a : Int) (bs : List Byte) (h : Stands s k r) :
    (directWriteI2CRegBuffer O d a bs r).EndsAt s (k + writeCount s.cfg) := by
  unfold directWriteI2CRegBuffer
  split
  · split
    · split
      · exact i2cWrite_endsAt _ _ _ h
      · exact when_fault
    · exact when_fault
  · exact when_fault

/-- A read through the I2C proxy returns the answer to its second primitive (R71, R73). -/
theorem i2cRead_answer (d a : Int) (n : Nat) (h : Stands s k r) : (directI2CRead O d a n r).When fun v r1 =>
    O (k + 1) (i2cRead s.cfg d n) = .ok v ∧ Stands s (k + 2) r1 := by
  refine when_andThen (ask_endsAt _ h) fun _ r1 h1 => ?_
  rw [h1.cfg]
  exact when_andThen (when_and (ask_result _ h1) (ask_endsAt _ h1)) fun _ _ ⟨hv, h2⟩ =>
    when_ok ⟨answer_of_i2cRead hv, h2⟩

theorem readI2CReg_endsAt (d a : Int) (h : Stands s k r) : (directReadI2CReg O d a r).EndsAt s (k + 2) := by
  unfold directReadI2CReg
  split
  · split
    · exact when_andThen (i2cRead_answer _ _ _ h) fun _ _ ⟨_, h1⟩ => when_ok h1
    · exact when_fault
  · exact when_fault

theorem readI2CRegBuffer_answer (d a n : Int) (h : Stands s k r) : (directReadI2CRegBuffer O d a n r).When fun v r1 =>
    O (k + 1) (i2cRead s.cfg d n.toNat) = .ok v ∧ Stands s (k + 2) r1 := by
  unfold directReadI2CRegBuffer
  split
  · split
    · split
      · exact i2cRead_answer _ _ _ h
      · exact when_fault
    · exact when_fault
  · exact when_fault

theorem readBulk_endsAt (n : Int) (h : Stands s k r) : (directReadBulk O n r).EndsAt s (k + 1) := by
  unfold directReadBulk
  split
  · split
    · exact when_andThen (ask_endsAt _ h) fun _ _ h1 => when_ok h1
    · exact when_fault
  · exact when_fault

/-! ### Registers of the tuner -/

theorem check_endsAt (h : Stands s k r) : (directCheck O r).EndsAt s (k + 2) :=
  when_andThen (readI2CReg_endsAt _ _ h) fun _ _ h1 => when_ok h1

/-- A status read returns the buffer at the index of its second primitive (R82). -/
theorem readRegBuffer_status (a n : Int) (h : Stands s k r) : (directReadRegBuffer O a n r).When fun st r1 =>
    st = statusAt O s.cfg n.toNat (k + 1) ∧ Stands s (k + 2) r1 := by
  refine when_tuner ?_
  split
  · refine when_andThen (readI2CRegBuffer_answer _ _ _ h) fun d r1 ⟨hread, h1⟩ => when_ok ⟨?_, h1⟩
    rw [statusAt, hread, h1.cfg]
  · exact when_fault

theorem readRegBuffer_endsAt (a n : Int) (h : Stands s k r) : (directReadRegBuffer O a n r).EndsAt s (k + 2) :=
  when_mono (readRegBuffer_status a n h) fun _ _ h1 => h1.2

theorem masked_endsAt (w : MaskedWrite) (h : Stands s k r) :
    (directMasked O w r).EndsAt s (k + writeCount s.cfg) := by
  refine when_tuner ?_
  split
  · exact when_fault
  split
  · split
    · exact when_fault
    split
    · exact writeI2CReg_endsAt _ _ _ ⟨h.cfg, h.crystal, h.answered, h.recorded⟩
    · exact when_fault
  · exact when_fault

theorem maskedAll_endsAt (ws : List MaskedWrite) (h : Stands s k r) :
    (directMaskedAll O ws r).EndsAt s (k + writeCount s.cfg * ws.length) := by
  induction ws generalizing k r with
  | nil => exact when_ok h
  | cons w ws ih =>
    exact when_andThen (masked_endsAt w h) fun _ _ h1 => (ih h1).cast (by rw [List.length_cons]; ring)

/-! ### Lock detection and the synthesis -/

theorem attempt_status (a : Attempt) (h : Stands s k r) : (directAttempt O a r).When fun locked r1 =>
    locked = lockBitSet (statusAt O s.cfg LOCK_LEN (k + 1)) ∧ Stands s (k + 2) r1 := by
  unfold directAttempt
  rw [h.cfg]
  refine when_andThen (readRegBuffer_status _ _ ⟨h.cfg, h.crystal, h.answered, h.recorded⟩) fun st r1 ⟨hst, h1⟩ => ?_
  exact when_ok ⟨hst ▸ rfl, h1⟩

theorem secondAttempt_endsAt (h : Stands s k r) : (directSecondAttempt O r).EndsAt s (k + 2) := by
  refine when_andThen (attempt_status _ h) fun _ _ ⟨_, hc, hx, ha, ht⟩ => ?_
  split <;> exact when_ok ⟨hc, hx, ha, ht⟩

/-- A first attempt that locks is all; one that does not is followed by the nudge and the second (R101). -/
theorem getPllLock_endsAt (h : Stands s k r) :
    (directGetPllLock O true r).EndsAt s (k + (lockTuning O s.cfg k).count) := by
  refine when_tuner (when_andThen (attempt_status _ h) ?_)
  rintro locked r1 ⟨rfl, h1⟩
  unfold lockTuning
  split
  · obtain ⟨hc, hx, ha, ht⟩ := h1
    exact when_ok ⟨hc, hx, ha, ht⟩
  · exact when_andThen (masked_endsAt _ h1) fun _ _ h2 => (secondAttempt_endsAt h2).cast (by ring)

theorem synthesize_endsAt (mixDiv : Rat) (nint : Int) (vcoFra x : Rat) (h : Stands s k r) :
    (directSynthesize O mixDiv nint vcoFra r).EndsAt s (k + (synthesisTuning O s.cfg nint vcoFra x k).count) := by
  refine when_andThen (masked_endsAt _ h) fun _ _ h1 => when_andThen (masked_endsAt _ h1) fun _ _ h2 =>
    when_andThen (masked_endsAt _ h2) fun _ _ h3 => when_andThen (masked_endsAt _ h3) fun _ _ h4 =>
    when_andThen (getPllLock_endsAt h4) fun _ _ h5 => when_andThen (masked_endsAt _ h5) fun _ _ h6 => when_ok ?_
  rw [show k + writeCount s.cfg + writeCount s.cfg + writeCount s.cfg + writeCount s.cfg = k + writeCount s.cfg * 4 by
    ring] at h6
  rw [synthesisTuning]
  convert h6 using 1
  ring

/-- `setPll` issues what its closed form counts, also where its frequency is unreachable (R92, R96). -/
theorem setPll_endsAt (f : Int) (h : Stands s k r) :
    (directSetPll O f r).EndsAt s (k + (pllTuning O s.cfg f (crystal s) k).count) := by
  refine when_tuner ?_
  split
  · rw [h.cfg]
    refine when_andThen (maskedAll_endsAt _ h) fun _ _ h1 => when_andThen (readRegBuffer_endsAt _ _ h1) fun _ _ h2 =>
      when_andThen (masked_endsAt _ h2) fun _ r3 h3 => ?_
    rw [show k + writeCount s.cfg * s.cfg.setpllPre.length + 2 + writeCount s.cfg =
      k + (writeCount s.cfg * (s.cfg.setpllPre.length + 1) + 2) by ring] at h3
    rw [directParameters_eq, h3.crystal, pllTuning_eq]
    simp only
    split
    · exact when_ok ⟨h3.cfg, h3.crystal, h3.answered, h3.recorded⟩
    split
    · exact when_fault
    · exact (synthesize_endsAt _ _ _ (crystal s) h3).cast (by ring)
  · exact when_fault

/-- The multiplexer writes its four fields, and then comes the synthesis (R91). -/
theorem setMux_endsAt (hc : Admissible s.cfg) (f : Int) (h : Stands s k r) :
    (directSetMux O f r).EndsAt s (k + 4 * writeCount s.cfg) := by
  refine when_tuner ?_
  split
  · exact when_fault
  split
  · exact when_fault
  · refine (maskedAll_endsAt _ h).cast ?_
    rw [h.cfg, muxWrites_length hc, Nat.mul_comm]

theorem setFrequency_endsAt (hc : Admissible s.cfg) (f : Int) (h : Stands s k r) :
    (directSetFrequency O f r).EndsAt s (k + (retuning O s.cfg f (crystal s) k).count) := by
  refine when_tuner ?_
  split
  · exact when_andThen (setMux_endsAt hc f h) fun _ _ h1 => (setPll_endsAt f h1).cast (Nat.add_assoc ..)
  · exact when_fault

/-! ### Calibration and the electronics -/

/-- A pass that returns has locked, and its code is that of the status read it ends with (R103). -/
theorem calibrationPass_code (h : Stands s k r) : (directCalibrationPass O r).When fun code r1 =>
    code = (calibrationPass O s.cfg (crystal s) k).code ∧
      Stands s (k + (calibrationPass O s.cfg (crystal s) k).count) r1 := by
  unfold directCalibrationPass
  rw [h.cfg]
  refine when_andThen (maskedAll_endsAt _ h) fun _ _ h1 => when_andThen (setPll_endsAt _ h1) fun _ r2 h2 => ?_
  split
  · rw [h2.cfg]
    refine when_andThen (maskedAll_endsAt _ h2) fun _ r3 h3 => ?_
    rw [h3.cfg]
    refine when_andThen (readRegBuffer_status _ _ h3) ?_
    rintro _ r4 ⟨rfl, h4⟩
    simp only [calibrationPass, Calibration.code, Nat.add_assoc] at h4 ⊢
    exact when_ok ⟨rfl, h4⟩
  · exact when_error

/-- The primitives of a calibration that returns: one pass, or two where the first reads a code other than 0 (R103). -/
def calibrationCount (O : Transport) (c : Config) (x : Rat) (first : Bool) (k : Nat) : Nat :=
  let n := (calibrationPass O c x k).count
  if first = true ∧ (calibrationPass O c x k).code ≠ 0 then n + (calibrationPass O c x (k + n)).count else n

theorem calibrateFilter_endsAt (first : Bool) (h : Stands s k r) :
    (directCalibrateFilter O first r).EndsAt s (k + calibrationCount O s.cfg (crystal s) first k) := by
  refine when_tuner (when_andThen (calibrationPass_code h) ?_)
  rintro code r1 ⟨rfl, h1⟩
  simp only [calibrationCount, and_comm (a := first = true)]
  split
  · exact when_mono (calibrationPass_code h1) fun _ _ ⟨_, h2⟩ => Nat.add_assoc .. ▸ h2
  · exact when_ok h1

/-- The primitives of `initElectronics` where it returns (R87). -/
def electronicsCount (O : Transport) (c : Config) (x : Rat) (k : Nat) : Nat :=
  writeCount c * c.initElecPre.length + calibrationCount O c x true (k + writeCount c * c.initElecPre.length)
    + writeCount c * c.initElecPost.length

theorem initElectronics_endsAt (h : Stands s k r) :
    (directInitElectronics O r).EndsAt s (k + electronicsCount O s.cfg (crystal s) k) := by
  refine when_tuner ?_
  rw [h.cfg]
  refine when_andThen (maskedAll_endsAt _ h) fun _ _ h1 => when_andThen (calibrateFilter_endsAt _ h1) fun _ r2 h2 => ?_
  refine (maskedAll_endsAt _ h2).cast ?_
  rw [h2.cfg, List.length_map, electronicsCount]
  ring

theorem image_endsAt (is : List (Fin 27)) (h : Stands s k r) :
    (directImage O is r).EndsAt s (k + is.length * writeCount s.cfg) := by
  induction is generalizing k r with
  | nil => exact when_ok (by simpa using h)
  | cons i is ih =>
    refine when_andThen (writeI2CReg_endsAt _ _ _ (k := k) ⟨h.cfg, h.crystal, h.answered, h.recorded⟩) fun _ _ h1 => ?_
    exact (ih h1).cast (by rw [List.length_cons]; ring)

/-- The image is 27 register writes, and then come the electronics (R86). -/
theorem tunerInit_endsAt (h : Stands s k r) : (directTunerInit O r).EndsAt s
    (k + (27 * writeCount s.cfg + electronicsCount O s.cfg (crystal s) (k + 27 * writeCount s.cfg))) := by
  refine when_tuner ?_
  split
  · exact when_andThen (image_endsAt _ h) fun _ _ h1 => (initElectronics_endsAt h1).cast (Nat.add_assoc ..)
  · exact when_fault

/-! ### Standby and gain -/

theorem tunerClose_endsAt (hc : Admissible s.cfg) (h : Stands s k r) :
    (directTunerClose O r).EndsAt s (k + 11 * writeCount s.cfg) := by
  refine when_tuner ((maskedAll_endsAt _ h).cast ?_)
  rw [h.cfg, List.length_map, hc.standby_length, Nat.mul_comm]

theorem setAutoGain_endsAt (h : Stands s k r) :
    (directSetAutoGain O r).EndsAt s (k + writeCount s.cfg * s.cfg.autoGainWrites.length) := by
  refine when_tuner ?_
  rw [h.cfg]
  exact maskedAll_endsAt _ h

/-- The LNA and the mixer write follow the writes that turn the AGC off (R110). -/
theorem setManualGain_endsAt (g : Rat) (h : Stands s k r) :
    (directSetManualGain O g r).EndsAt s (k + writeCount s.cfg * (s.cfg.manualGainPre.length + 2)) := by
  refine when_tuner ?_
  rw [h.cfg]
  exact when_andThen (maskedAll_endsAt _ h) fun _ _ h1 => (maskedAll_endsAt _ h1).cast (by simp [gainWrites]; ring)

/-! ### External commands -/

/-- `setGain` opens the repeater, sets the gain and closes the repeater (R116). -/
theorem setGain_endsAt (g : Option Rat) (h : Stands s k r)
    (hgain : ∀ r1, Stands s (k + 2) r1 → (directSetGainInner O g r1).EndsAt s (k + 2 + n)) :
    (directSetGain O g r).EndsAt s (k + (4 + n)) :=
  when_session <| when_andThen (openI2C_endsAt h) fun _ r1 h1 => when_andThen (hgain r1 h1) fun _ _ h2 =>
    (closeI2C_endsAt h2).cast (by ring)

/-- `setCenterFrequency` opens the repeater, retunes and closes the repeater (R121). -/
theorem setCenterFrequency_endsAt (hc : Admissible s.cfg) (f : Int) (h : Stands s k r) :
    (directSetCenterFrequency O f r).EndsAt s
      (k + (4 + (retuning O s.cfg (f + IF_FREQ) (crystal s) (k + 2)).count)) := by
  refine when_session ?_
  split
  · exact when_fault
  · refine when_andThen (openI2C_endsAt h) fun _ _ h1 => when_andThen (setFrequency_endsAt hc _ h1) fun _ _ h2 =>
      when_andThen (closeI2C_endsAt h2) fun _ _ h3 => when_ok ?_
    convert h3 using 1
    ring

theorem readSamples_endsAt (n : Int) (h : Stands s k r) : (directReadSamples O n r).EndsAt s (k + 1) := by
  refine when_session ?_
  split
  · exact when_fault
  split
  · exact readBulk_endsAt _ h
  · exact when_fault

/-! ### The counts -/

/-- A lock attempt by what its first read gives (R157). -/
theorem lockTuning_count (O : Transport) (c : Config) (k : Nat) :
    (lockTuning O c k).count = if lockBitSet (statusAt O c 3 (k + 1)) then 2 else 4 + writeCount c := by
  simp only [lockTuning, LOCK_LEN, apply_ite Tuning.count, Nat.add_comm]

/-- The primitives of `setPll`, and where its first lock read stands (R157). -/
theorem pllTuning_count (O : Transport) (c : Config) (f : Int) (x : Rat) (k : Nat) :
    (pllTuning O c f x k).count =
      if NINT_MAX < nintOf f x then 2 + writeCount c + writeCount c * c.setpllPre.length
      else 2 + 6 * writeCount c + (lockTuning O c (k + 2 + 5 * writeCount c + writeCount c * c.setpllPre.length)).count
        + writeCount c * c.setpllPre.length := by
  rw [pllTuning_eq]
  simp only [synthesisTuning]
  split
  · ring
  · rw [show k + (writeCount c * (c.setpllPre.length + 1) + 2) + writeCount c * 4 =
      k + 2 + 5 * writeCount c + writeCount c * c.setpllPre.length by ring]
    ring

/-- The number of primitives of a command that has returned. -/
theorem Result.EndsAt.count {x : Result α} {v : α} (h : x.EndsAt s (0 + n)) (hx : x = .ok v r) :
    r.state.trace.length - s.trace.length = n := by
  have hrecorded := (Result.When.of_ok h hx).recorded
  omega

end Counting

/-- Settles O60: each command by the count of its operation, from the start of the command. -/
theorem transferCounts : Obligations.TransferCounts := by
  intro O s i v r hs hd W x lock setPll pass calibrateFilter initElectronics manualGain autoGain count
  rw [configured, Bool.and_eq_true] at hs
  have hc := admissible_of_wellFormed hs.1
  have hstart := stands_start s
  have hlock (k : Nat) : (lockTuning O s.cfg k).count = lock k := lockTuning_count O s.cfg k
  have hpll (f : Int) (k : Nat) : (pllTuning O s.cfg f x k).count = setPll f k := by
    rw [pllTuning_count, hlock]; rfl
  have hretune (f : Int) (k : Nat) : (retuning O s.cfg f x k).count = 4 * W + setPll f (k + 4 * W) := by
    rw [← hpll]; rfl
  have hpass (k : Nat) : (calibrationPass O s.cfg x k).count = pass k := by
    simp only [calibrationPass, hpll]; rfl
  have hcal (first : Bool) (k : Nat) : calibrationCount O s.cfg x first k = calibrateFilter first k := by
    simp only [calibrationCount, hpass]; rfl
  have helec (k : Nat) : electronicsCount O s.cfg x k = initElectronics k := by
    simp only [electronicsCount, hcal]; rfl
  refine ⟨?grows, ?single, ?masked, ?demod, ?reads, ?writes, ?electronics, ?init, ?mux, ?second, ?lock, ?pll, ?tune,
    ?calibrate, ?close, ?auto, ?manual, ?gainAuto, ?gainManual, ?center, ?samples⟩
  case grows =>
    obtain ⟨ps, hps⟩ := (direct_grows O i (Run.start s)).of_ok hd
    rw [hps, List.length_append]
    exact Nat.le_add_right ..
  case single =>
    rintro b a y w (rfl | rfl | rfl | rfl)
    · exact (endsAt_map (writeReg_endsAt _ _ _ _ hstart)).count hd
    · exact (endsAt_map (writeReg_endsAt _ _ _ _ hstart)).count hd
    · exact (endsAt_map (readReg_endsAt _ _ _ hstart)).count hd
    · exact (endsAt_map (readDemodReg_endsAt _ _ hstart)).count hd
  case masked =>
    rintro b a y m (rfl | rfl)
    · exact (endsAt_map (writeRegMask_endsAt _ _ _ _ hstart)).count hd
    · exact (endsAt_map (writeRegMask_endsAt _ _ _ _ hstart)).count hd
  case demod =>
    rintro p a y w (rfl | rfl | rfl | rfl)
    · exact (endsAt_map (writeDemodReg_endsAt _ _ _ _ hstart)).count hd
    · exact (endsAt_map (writeDemodReg_endsAt _ _ _ _ hstart)).count hd
    · exact (endsAt_map (openI2C_endsAt hstart)).count hd
    · exact (endsAt_map (closeI2C_endsAt hstart)).count hd
  case reads =>
    rintro d a n (rfl | rfl | rfl | rfl)
    · exact (endsAt_map (readI2CReg_endsAt _ _ hstart)).count hd
    · exact (endsAt_map (when_mono (readI2CRegBuffer_answer _ _ _ hstart) fun _ _ h => h.2)).count hd
    · exact (endsAt_map (readRegBuffer_endsAt _ _ hstart)).count hd
    · exact (endsAt_map (check_endsAt hstart)).count hd
  case writes =>
    rintro d a y m bs (rfl | rfl | rfl | rfl)
    · exact (endsAt_map (writeI2CReg_endsAt _ _ _ hstart)).count hd
    · exact (endsAt_map (writeI2CReg_endsAt _ _ _ hstart)).count hd
    · exact (endsAt_map (writeI2CRegBuffer_endsAt _ _ _ hstart)).count hd
    · exact (endsAt_map (masked_endsAt _ hstart)).count hd
  case electronics =>
    rintro rfl
    exact helec 0 ▸ (endsAt_map (initElectronics_endsAt hstart)).count hd
  case init =>
    rintro rfl
    have h := (endsAt_map (tunerInit_endsAt hstart)).count hd
    rwa [Nat.zero_add, helec] at h
  case mux =>
    rintro f rfl
    exact (endsAt_map (setMux_endsAt hc _ hstart)).count hd
  case second =>
    rintro rfl
    exact (endsAt_map (when_tuner (secondAttempt_endsAt hstart))).count hd
  case lock =>
    rintro rfl
    exact hlock 0 ▸ (endsAt_map (getPllLock_endsAt hstart)).count hd
  case pll =>
    rintro f rfl
    exact hpll f 0 ▸ (endsAt_map (setPll_endsAt _ hstart)).count hd
  case tune =>
    rintro f rfl
    have h := (endsAt_map (setFrequency_endsAt hc _ hstart)).count hd
    rwa [hretune, Nat.zero_add] at h
  case calibrate =>
    rintro first rfl
    exact hcal first 0 ▸ (endsAt_map (calibrateFilter_endsAt _ hstart)).count hd
  case close =>
    rintro rfl
    exact (endsAt_map (tunerClose_endsAt hc hstart)).count hd
  case auto =>
    rintro rfl
    exact (endsAt_map (setAutoGain_endsAt hstart)).count hd
  case manual =>
    rintro g rfl
    exact (endsAt_map (setManualGain_endsAt g hstart)).count hd
  case gainAuto =>
    rintro rfl
    exact (endsAt_map (setGain_endsAt none hstart fun _ h => setAutoGain_endsAt h)).count hd
  case gainManual =>
    rintro g rfl
    exact (endsAt_map (setGain_endsAt (some g) hstart fun _ h => setManualGain_endsAt g h)).count hd
  case center =>
    rintro f rfl
    have h := (endsAt_map (setCenterFrequency_endsAt hc f hstart)).count hd
    rwa [hretune, Nat.zero_add, ← Nat.add_assoc] at h
  case samples =>
    rintro n rfl
    exact (endsAt_map (readSamples_endsAt n hstart)).count hd

end Sys2Proof.Machine
end
